-- ==== Sys2Proof/Word.lean ====
section
/-! DEFINITION. The two kinds of value the block handles: bits (command words) and voltages (real numbers). -/

namespace Sys2Proof

/-- One byte of a command stream (R55). -/
abbrev Byte := BitVec 8

/-- A command word (R7, R65). Bit 0 is the least significant bit. -/
abbrev Word := BitVec 16

/-! ### Numbers (R8, R10; assumption 1) -/

/-- A real number as plain data: a rational, a real without a name in this syntax that the model leaves free, or what an
exact operation of R10 gives. Which real it is, `Number.toReal` says. -/
inductive Number where
  | rat (q : Rat)
  | named (n : Nat)
  | pi
  | add (x y : Number)
  | sub (x y : Number)
  | mul (x y : Number)
  | div (x y : Number)
  | sin (x : Number)
  | exp2 (x : Number)
  | pow (b e : Number)
deriving DecidableEq, Repr, Inhabited

/-- The reals behind `Number.named`: free values, so that whatever real a host puts on the bus can be meant by a name. -/
opaque Config.namedReal : Nat → ℝ

/-- The real a number is; every operation is the exact one of R10. -/
noncomputable def Number.toReal : Number → ℝ
  | .rat q => q
  | .named n => Config.namedReal n
  | .pi => Real.pi
  | .add x y => x.toReal + y.toReal
  | .sub x y => x.toReal - y.toReal
  | .mul x y => x.toReal * y.toReal
  | .div x y => x.toReal / y.toReal
  | .sin x => Real.sin x.toReal
  | .exp2 x => (2 : ℝ) ^ x.toReal
  | .pow b e => b.toReal ^ e.toReal

/-! ### Values on the bus (R8, R9) -/

/-- A value the host may put on the input bus, in a control or in a parameter (R8, R9): a finite number, a NaN or
an infinity. -/
inductive Value where
  | fin (x : Number)
  | nan
  | posInf
  | negInf
deriving DecidableEq, Repr

/-- A rational on the bus. -/
abbrev Value.ofRat (q : Rat) : Value := .fin (.rat q)

/-- R9: only a finite value has a meaning. -/
def Value.isFinite : Value → Bool
  | .fin _ => true
  | _ => false

/-- The number of a finite value. Callers have checked `isFinite`; for the rest the answer is never used. -/
def Value.number : Value → Number
  | .fin x => x
  | _ => .rat 0

/-- A range condition on a value: it can hold of a finite value only (R9, assumption 9). -/
def Value.test (f : Number → Bool) : Value → Bool
  | .fin x => f x
  | _ => false

end Sys2Proof
end

