-- ==== Sys2Proof/Syntax.lean ====
section
/-! DEFINITION. The nine commands of the opcode map (R68), as data. -/

namespace Sys2Proof

/-- The FM mode of an oscillator (R35, R75): 0 is exponential, 1 is linear through-zero. -/
inductive FmMode where
  | exponential
  | linear
deriving DecidableEq, Repr

/-- The integer of a mode (R75). -/
def FmMode.toInt : FmMode → Int
  | .exponential => 0
  | .linear => 1

/-- The bit of a mode in a `SETMODE` word (R67). -/
def FmMode.toBit : FmMode → Bool
  | .exponential => false
  | .linear => true

/-- The mode a bit stands for (R67, R75). -/
def FmMode.ofBit : Bool → FmMode
  | false => .exponential
  | true => .linear

/-- A command: one constructor per row of the opcode table (R68). `u` is the unit number (R66). -/
inductive Instr where
  | nop
  | tickOsc (u : Nat)
  | tickGain (u : Nat)
  | tickBern (u : Nat)
  | tickLogic (u : Nat)
  | setMode (u : Nat) (m : FmMode)
  | saveCfg (u : Nat)
  | loadCfg (u : Nat)
  | reset
deriving DecidableEq, Repr

/-- The unit number a command names; `NOP` and `RESET` require 0 (R66). -/
def Instr.unit : Instr → Nat
  | .nop => 0
  | .tickOsc u => u
  | .tickGain u => u
  | .tickBern u => u
  | .tickLogic u => u
  | .setMode u _ => u
  | .saveCfg u => u
  | .loadCfg u => u
  | .reset => 0

end Sys2Proof
end

