-- ==== Sys2Proof/Config.lean ====
section
/-! DEFINITION. What the spec fixes for this hardware (R6, the rows with a value), the type of a numerics record (R10),
and the free values: constants without a body, so that no proof can rest on what they are. -/

namespace Sys2Proof

/-! ### Fixed parameters (R6) -/

/-- `LANES`. -/
def Config.lanes : Nat := 16
/-- `GROUP`. -/
def Config.group : Nat := 4
/-- `NGROUPS`. -/
def Config.nGroups : Nat := 4
/-- `HARMONICS`. -/
def Config.harmonics : Nat := 8
/-- `FREQ_DIV`. -/
def Config.freqDiv : Rat := 16
/-- `GATE_THRESHOLD`. -/
def Config.gateThreshold : Rat := 2
/-- `HIGH_V`. -/
def Config.highV : Rat := 10
/-- `LOW_V`. -/
def Config.lowV : Rat := 0
/-- `LOGIC_HIGH_V`. -/
def Config.logicHighV : Rat := 10
/-- `LOGIC_LOW_V`. -/
def Config.logicLowV : Rat := 0
/-- `GAIN_LIMIT`. -/
def Config.gainLimit : Rat := 10
/-- `CV_SCALE`. -/
def Config.cvScale : Rat := 10
/-- `PROB_DEFAULT`. -/
def Config.probDefault : Rat := 1 / 2
/-- `FMMODE_DEFAULT`. -/
def Config.fmModeDefault : FmMode := .exponential
/-- `OSC_OUT_LIMIT`. -/
def Config.oscOutLimit : Rat := 10

/-! ### The numerics record -/

/-- `NUM` (R10): the operations a rule computes with. `shortCircuit` says whether this arithmetic takes the short cut of
R92. -/
structure Numerics where
  add : Number → Number → Number
  sub : Number → Number → Number
  mul : Number → Number → Number
  div : Number → Number → Number
  floor : Number → Int
  sin : Number → Number
  pi : Number
  exp2 : Number → Number
  pow : Number → Number → Number
  shortCircuit : Bool

/-! ### Free values of an implementation's arithmetic (R8, R10; assumption 2)

The record takes each of these functions where it is one of the reals, with the properties R10 names. -/

opaque Config.implAdd : Number → Number → Number
opaque Config.implSub : Number → Number → Number
opaque Config.implMul : Number → Number → Number
opaque Config.implDiv : Number → Number → Number
opaque Config.implFloor : Number → Int
opaque Config.implSin : Number → Number
opaque Config.implPi : Number
opaque Config.implExp2 : Number → Number
opaque Config.implPow : Number → Number → Number
/-- R92 and 93 I1: whether the implementation computes only the fundamental when both weights are 0. -/
opaque Config.implShortCircuit : Bool

/-! ### Draws (R12, R34, R49, R117; assumption 4). The arguments are the unit kind of R51, the unit and a counter. -/

/-- `draw_any(Real)`. -/
opaque Config.freeReal : Nat → Nat → Nat → Number
/-- `draw_any([0,1))`, as a number that `unitOf` takes the fraction of. -/
opaque Config.freeUnit : Nat → Nat → Nat → Number
/-- The random oracle `RAND[u]` past the draws the host has named, as for `freeUnit`. -/
opaque Config.randTail : Nat → Nat → Number

end Sys2Proof
end

