-- ==== Sys2Proof/WellFormed.lean ====
section
/-! DEFINITION. Which commands have a word: the unit number must fit its four bits (R65, R78). -/

namespace Sys2Proof

/-- R65 and R78: a command is well formed when its unit number is at most 15. A mode is one of two names, so R78's
check of `m` is in the type. Whether the unit exists is a question of execution (R71), not of form. -/
def Instr.wellFormed : Instr → Bool
  | .nop => true
  | .tickOsc u => decide (u ≤ 15)
  | .tickGain u => decide (u ≤ 15)
  | .tickBern u => decide (u ≤ 15)
  | .tickLogic u => decide (u ≤ 15)
  | .setMode u _ => decide (u ≤ 15)
  | .saveCfg u => decide (u ≤ 15)
  | .loadCfg u => decide (u ≤ 15)
  | .reset => true

end Sys2Proof
end

