-- ==== Sys2Proof/Decode.lean ====
section
/-! DEFINITION. The decoder and the encoder of command words (R65 to R74), and their byte stream (R55). -/

namespace Sys2Proof

/-- Why a word or a byte stream holds no command, by name. The first two are the spec's `Illegal(ReservedEncoding)`
(R69, R70); `truncated` is a stream of fewer than two bytes, which is no whole command word (R56). -/
inductive DecodeError where
  | reservedOpcode
  | mustBeZero
  | truncated
deriving DecidableEq, Repr

/-- One row of the opcode map (R68). -/
structure Row where
  name : String
  pattern : Word
  mask : Word
deriving DecidableEq, Repr

def rowNop : Row := ⟨"NOP", 0x0000#16, 0xFFFF#16⟩
def rowTickOsc : Row := ⟨"TICK_OSC", 0x1000#16, 0xF0FF#16⟩
def rowTickGain : Row := ⟨"TICK_GAIN", 0x2000#16, 0xF0FF#16⟩
def rowTickBern : Row := ⟨"TICK_BERN", 0x3000#16, 0xF0FF#16⟩
def rowTickLogic : Row := ⟨"TICK_LOGIC", 0x4000#16, 0xF0FF#16⟩
def rowSetMode : Row := ⟨"SETMODE", 0x5000#16, 0xF0FE#16⟩
def rowSaveCfg : Row := ⟨"SAVECFG", 0x6000#16, 0xF0FF#16⟩
def rowLoadCfg : Row := ⟨"LOADCFG", 0x7000#16, 0xF0FF#16⟩
def rowReset : Row := ⟨"RESET", 0x8000#16, 0xFFFF#16⟩

/-- The opcode map (R68). -/
def opcodeMap : List Row :=
  [rowNop, rowTickOsc, rowTickGain, rowTickBern, rowTickLogic, rowSetMode, rowSaveCfg, rowLoadCfg, rowReset]

/-- R68: a word selects a row when it equals the row's match under the row's mask. -/
def Row.selects (r : Row) (w : Word) : Bool := (w &&& r.mask) == r.pattern

/-- The row a command belongs to. -/
def Instr.row : Instr → Row
  | .nop => rowNop
  | .tickOsc _ => rowTickOsc
  | .tickGain _ => rowTickGain
  | .tickBern _ => rowTickBern
  | .tickLogic _ => rowTickLogic
  | .setMode _ _ => rowSetMode
  | .saveCfg _ => rowSaveCfg
  | .loadCfg _ => rowLoadCfg
  | .reset => rowReset

/-- The field `op` (R65). -/
def opField (w : Word) : Nat := (w.extractLsb' 12 4).toNat

/-- The field `u`, zero-extended (R65, R66). -/
def unitField (w : Word) : Nat := (w.extractLsb' 8 4).toNat

/-- The mode bit of a `SETMODE` word, `imm[0]` (R67). -/
def modeField (w : Word) : FmMode := FmMode.ofBit (w.getLsbD 0)

/-- R74: the decoder is total. It answers the one command whose row the word selects, or names why there is none. -/
def decode (w : Word) : Except DecodeError Instr :=
  if rowNop.selects w then .ok .nop
  else if rowTickOsc.selects w then .ok (.tickOsc (unitField w))
  else if rowTickGain.selects w then .ok (.tickGain (unitField w))
  else if rowTickBern.selects w then .ok (.tickBern (unitField w))
  else if rowTickLogic.selects w then .ok (.tickLogic (unitField w))
  else if rowSetMode.selects w then .ok (.setMode (unitField w) (modeField w))
  else if rowSaveCfg.selects w then .ok (.saveCfg (unitField w))
  else if rowLoadCfg.selects w then .ok (.loadCfg (unitField w))
  else if rowReset.selects w then .ok .reset
  else if opField w ≤ 8 then .error .mustBeZero
  else .error .reservedOpcode

/-- R55: on a byte stream the low byte of a word comes first. The rest of the stream is handed back. -/
def decodeBytes : List Byte → Except DecodeError (Instr × List Byte)
  | lo :: hi :: rest =>
    match decode (hi ++ lo) with
    | .ok i => .ok (i, rest)
    | .error e => .error e
  | _ => .error .truncated

/-- The one format of a command word: `op`, `u`, `imm` from the high bits down (R65). -/
def commandWord (op : BitVec 4) (u : Nat) (imm : BitVec 8) : Word := op ++ BitVec.ofNat 4 u ++ imm

/-- The word of a well-formed command, written from the encodings of R94, R112, R120, R127, R128, R130 to R132, R135. -/
def encode : Instr → Word
  | .nop => commandWord 0x0#4 0 0#8
  | .tickOsc u => commandWord 0x1#4 u 0#8
  | .tickGain u => commandWord 0x2#4 u 0#8
  | .tickBern u => commandWord 0x3#4 u 0#8
  | .tickLogic u => commandWord 0x4#4 u 0#8
  | .setMode u m => commandWord 0x5#4 u (0#7 ++ BitVec.ofBool m.toBit)
  | .saveCfg u => commandWord 0x6#4 u 0#8
  | .loadCfg u => commandWord 0x7#4 u 0#8
  | .reset => commandWord 0x8#4 0 0#8

/-- The two bytes of a word on a byte stream, low byte first (R55). -/
def wordBytes (w : Word) : List Byte := [w.extractLsb' 0 8, w.extractLsb' 8 8]

/-- The bytes of a command on a byte stream (R55). -/
def encodeBytes (i : Instr) : List Byte := wordBytes (encode i)

/-- The word whose bits are `w`, numbered from the least significant bit; the bits at or above `nbits` are 0. -/
def tableWord (nbits w : Nat) : Word := BitVec.ofNat 16 (w % 2 ^ nbits)

/-- The command the decoder reads from a word of the opcode table laid out on the byte stream. -/
def decodeTableWord (nbits w : Nat) : Option Instr :=
  match decodeBytes (wordBytes (tableWord nbits w)) with
  | .ok (i, _) => some i
  | .error _ => none

end Sys2Proof
end

