-- ==== Sys2Proof/Machine/State.lean ====
section
/-! DEFINITION. The state of the block (R32 to R42), the host's side of its interface (R43 to R48, R137, R151), the
parameters of R6, and the state at construction (R44). All of it is plain data. -/

namespace Sys2Proof.Machine

/-! ### Configuration records (R76) -/

mutual
/-- A JSON value. A number is `int` when it is written as an integer, `real` when it is written with a fraction or an
exponent (R133: `1.0` is no JSON integer). -/
inductive Json where
  | null
  | bool (b : Bool)
  | int (i : Int)
  | real (q : Rat)
  | str (t : String)
  | arr (items : JsonItems)
  | obj (members : JsonMembers)
deriving DecidableEq, Repr
/-- The items of a JSON array, in order. -/
inductive JsonItems where
  | nil
  | cons (item : Json) (rest : JsonItems)
deriving DecidableEq, Repr
/-- The members of a JSON object, in order. -/
inductive JsonMembers where
  | nil
  | cons (key : String) (value : Json) (rest : JsonMembers)
deriving DecidableEq, Repr
end

/-- What the host hands over for `LOADCFG`, or receives from `SAVECFG`: a JSON value, or text that does not parse (R133). -/
inductive Record where
  | json (j : Json)
  | malformed (text : String)
deriving DecidableEq, Repr

/-! ### The input bus (R46 to R48, R51, R52) -/

/-- An input port: the channel count the host declares and sixteen lane values (R46). The count is an `Int` because
the host may declare one outside 0..16 (R139). -/
structure InPort where
  ch : Int
  lanes : Vector Value 16
deriving DecidableEq, Repr

/-- The inputs of an oscillator (R51, kind 0), and whether its output is connected (R52). -/
structure OscBus where
  pitch : InPort
  fm : InPort
  depth : Value
  odd : Value
  even : Value
  outConn : Bool
deriving DecidableEq, Repr

/-- The inputs of a gain stage (R51, kind 1). -/
structure GainBus where
  input : InPort
  cv : InPort
  level : Value
  curve : Value
  offset : Value
  outConn : Bool
deriving DecidableEq, Repr

/-- The inputs of a Bernoulli unit (R51, kind 2). -/
structure BernBus where
  gate : InPort
  prob : InPort
  outAConn : Bool
  outBConn : Bool
deriving DecidableEq, Repr

/-- The inputs of a logic unit (R51, kind 3). -/
structure LogicBus where
  a : InPort
  b : InPort
  x : InPort
  y : InPort
  outAConn : Bool
  outBConn : Bool
  maxConn : Bool
  minConn : Bool
deriving DecidableEq, Repr

/-- One snapshot of the input bus (R57), for all units, with the two global scalars (R48). -/
structure Bus where
  osc : Vector OscBus 16
  gain : Vector GainBus 16
  bern : Vector BernBus 16
  logic : Vector LogicBus 16
  sampleTime : Value
  sampleRate : Value
deriving DecidableEq, Repr

/-- What the host sends for one command: the word, the snapshot of the input bus (R65) and the record it would hand to
a `LOADCFG` (R151). -/
structure Delivery where
  word : Word
  bus : Bus
  record : Record
deriving DecidableEq, Repr

/-! ### Output port registers (R41) -/

/-- A lane cell: a number, or no value (R54). -/
inductive Cell where
  | unspec
  | val (x : Number)
deriving DecidableEq, Repr

/-- An output port register: a channel count in 0..16 and sixteen lane cells (R41). -/
structure OutPort where
  ch : Nat
  cells : Vector Cell 16
deriving DecidableEq, Repr

/-! ### Units -/

/-- The latch of a Bernoulli unit (R38). -/
inductive Latch where
  | none
  | a
  | b
deriving DecidableEq, Repr

/-- An oscillator: the phase file (R32), the FM mode register (R35), `OSC_OUT` (R41), and the model's own counter of
draws (assumption 4). -/
structure OscUnit where
  phase : Vector Number 16
  fmMode : FmMode
  out : OutPort
  draws : Nat
deriving DecidableEq, Repr

/-- A gain stage: `GAIN_OUT` (R40, R41) and the model's own counter of draws (assumption 4). -/
structure GainUnit where
  out : OutPort
  draws : Nat
deriving DecidableEq, Repr

/-- The random oracle of a Bernoulli unit (R117): the draws the host has named and not yet used, and how many were
taken. After the named ones come the free values of `Config.randTail` (assumption 5). -/
structure Oracle where
  named : List Number
  taken : Nat
deriving DecidableEq, Repr

/-- A Bernoulli unit: the trigger flag (R37), the latch (R38), its outputs (R41), its oracle (R117). -/
structure BernUnit where
  lastHigh : Bool
  latch : Latch
  outA : OutPort
  outB : OutPort
  oracle : Oracle
deriving DecidableEq, Repr

/-- A logic unit: its four outputs (R40, R41). -/
structure LogicUnit where
  outA : OutPort
  outB : OutPort
  max : OutPort
  min : OutPort
deriving DecidableEq, Repr

/-! ### Refusals (R137, R138) and parameters (R6) -/

/-- The reasons of R138. -/
inductive RefuseReason where
  | reservedEncoding
  | noSuchUnit
  | channelRange
  | controlRange
  | zeroPowZero
  | nonFinite
deriving DecidableEq, Repr

/-- What a refused command's step reports: the reason together with the command word (R138). -/
structure Report where
  reason : RefuseReason
  word : Word
deriving DecidableEq, Repr

/-- Which numerics record the block computes with (R6, R10): the reference arithmetic or an implementation's. -/
inductive NumChoice where
  | ref
  | impl
deriving DecidableEq, Repr

/-- The parameters of R6 that have no fixed value. The spec's model takes them as an argument; here a state carries
them, no step changes them, and a claim about every state holds for every choice of them (assumption 6). -/
structure Params where
  nOsc : Nat
  nGain : Nat
  nBern : Nat
  nLogic : Nat
  baseFreq : Value
  oscOutScale : Value
  num : NumChoice
  phaseInit : Vector (Vector Number 16) 16
  bernInitLastHigh : Vector Bool 16
  bernInitLatch : Vector Latch 16
deriving DecidableEq, Repr

/-! ### The state -/

/-- The state. Unit files have sixteen entries because a command word can name sixteen units (R65); the units that
exist are those below the instance count (R5). `bus` and `record` are what came with the command last taken, `pending`
the commands the host has sent and the block has not yet taken, `emitted` the records the host received (oldest first),
`report` the refusal the last command taken reported, if it did (assumption 7). -/
structure State where
  params : Params
  osc : Vector OscUnit 16
  gain : Vector GainUnit 16
  bern : Vector BernUnit 16
  logic : Vector LogicUnit 16
  refused : Bool
  bus : Bus
  record : Record
  pending : List Delivery
  emitted : List Record
  report : Option Report
deriving DecidableEq, Repr

/-- Faults. No step answers one: R136, the block raises no exception, trap or fault of its own. -/
inductive Fault where
  /-- Raised by the host's observation `hostRead` alone, when it reads an `UNSPEC` cell at a lane below the port's
  channel count (R54). Safe: a claim about such a read cannot be proved. -/
  | unspecRead
deriving DecidableEq, Repr

/-- Refusals of the model, not of the block: the block's own refusals (R137) are next states with the mark set. -/
inductive Refusal where
  /-- Raised by an arm of `exec` that has no meaning yet; at present there is none. Safe: nothing can be proved of it. -/
  | notModelled (mnemonic : String)
deriving DecidableEq, Repr

/-! ### Construction and reset (R44, R152) -/

/-- An output port register after reset: channel count 0, every lane `UNSPEC` (R44). -/
def OutPort.reset : OutPort := ⟨0, Vector.replicate 16 .unspec⟩

/-- A disconnected input port (R46). -/
def InPort.disconnected : InPort := ⟨0, Vector.replicate 16 (.ofRat 0)⟩

/-- The bus the model shows before the host's first command (assumption 8): every input disconnected, every output
connected, the controls neutral, 48000 ticks a second. -/
def Bus.neutral : Bus where
  osc := Vector.replicate 16 ⟨.disconnected, .disconnected, .ofRat 0, .ofRat 0, .ofRat 0, true⟩
  gain := Vector.replicate 16 ⟨.disconnected, .disconnected, .ofRat 1, .ofRat 1, .ofRat 0, true⟩
  bern := Vector.replicate 16 ⟨.disconnected, .disconnected, true, true⟩
  logic := Vector.replicate 16 ⟨.disconnected, .disconnected, .disconnected, .disconnected, true, true, true, true⟩
  sampleTime := .ofRat (1 / 48000)
  sampleRate := .ofRat 48000

/-- The parameters of `State.reset` (assumption 6): the default counts of R6 and the choices the programs of
95_test_vectors.md name. -/
def Params.default : Params where
  nOsc := 1
  nGain := 1
  nBern := 1
  nLogic := 1
  baseFreq := .ofRat 100
  oscOutScale := .ofRat 5
  num := .ref
  phaseInit := Vector.replicate 16 (Vector.replicate 16 (.rat 0))
  bernInitLastHigh := Vector.replicate 16 false
  bernInitLatch := Vector.replicate 16 .none

/-- An oscillator after reset (R44), for the phases `PHASE_INIT` of that unit. Draws are not rewound (R135). -/
def OscUnit.afterReset (phaseInit : Vector Number 16) (draws : Nat) : OscUnit :=
  ⟨phaseInit, Config.fmModeDefault, .reset, draws⟩

/-- A gain stage after reset (R44). -/
def GainUnit.afterReset (draws : Nat) : GainUnit := ⟨.reset, draws⟩

/-- A Bernoulli unit after reset (R44). The oracle is not rewound (R135). -/
def BernUnit.afterReset (lastHigh : Bool) (latch : Latch) (oracle : Oracle) : BernUnit :=
  ⟨lastHigh, latch, .reset, .reset, oracle⟩

/-- A logic unit after reset (R44). -/
def LogicUnit.afterReset : LogicUnit := ⟨.reset, .reset, .reset, .reset⟩

/-- The block at construction, for any parameters (R44, R152): the refusal mark is false, no command has come. -/
def State.construct (p : Params) : State where
  params := p
  osc := Vector.ofFn fun k : Fin 16 => .afterReset p.phaseInit[k] 0
  gain := Vector.replicate 16 (.afterReset 0)
  bern := Vector.ofFn fun k : Fin 16 => .afterReset p.bernInitLastHigh[k] p.bernInitLatch[k] ⟨[], 0⟩
  logic := Vector.replicate 16 .afterReset
  refused := false
  bus := .neutral
  record := .json (.obj .nil)
  pending := []
  emitted := []
  report := none

/-- The machine right after reset, with the parameters `Params.default`. -/
def State.reset : State := .construct .default

end Sys2Proof.Machine
end

