-- ==== Sys2Proof/Machine/Numerics.lean ====
section
/-! DEFINITION. The order of the reals, and the numerics records (R10): the reference arithmetic and an
implementation's. -/

namespace Sys2Proof.Machine

/-! ### The order of the reals (R11; assumption 3)

Two rationals are compared by computing. For any other two numbers the answer is a fact about reals that no program
finds out; `decideReal` and `floorReal` have it in their types, which leave one value each. -/

open Classical in
/-- Whether a statement about reals is true. The loop never answers when it is run; what it is, its type says. -/
def decideReal (p : Prop) : { b : Bool // b = decide p } := decideReal p
partial_fixpoint

/-- The floor of a real, by its type as for `decideReal`. -/
def floorReal (x : Number) : { n : Int // n = ⌊x.toReal⌋ } := floorReal x
partial_fixpoint

/-- `x ≤ y`. -/
def Number.le : Number → Number → Bool
  | .rat p, .rat q => decide (p ≤ q)
  | x, y => (decideReal (x.toReal ≤ y.toReal)).val

/-- `x < y`. -/
def Number.lt (x y : Number) : Bool := !Number.le y x

/-- `x = y`, as reals. -/
def Number.eq (x y : Number) : Bool := Number.le x y && Number.le y x

/-- The greatest integer at most `x`. -/
def Number.floor : Number → Int
  | .rat q => ⌊q⌋
  | x => (floorReal x).val

/-- R11: the ordinary maximum. -/
def Number.max (x y : Number) : Number := if Number.le x y = true then y else x

/-- R11: the ordinary minimum. -/
def Number.min (x y : Number) : Number := if Number.le x y = true then x else y

/-- R11. -/
def clamp (x lo hi : Number) : Number := Number.min (Number.max x lo) hi

/-! ### The reference arithmetic (`NUM_REF`): exact operations, computed out where the result is seen to be rational -/

def refAdd : Number → Number → Number
  | .rat p, .rat q => .rat (p + q)
  | x, y => if x = .rat 0 then y else if y = .rat 0 then x else .add x y

def refSub : Number → Number → Number
  | .rat p, .rat q => .rat (p - q)
  | x, y => if y = .rat 0 then x else .sub x y

def refMul : Number → Number → Number
  | .rat p, .rat q => .rat (p * q)
  | x, y => if x = .rat 0 ∨ y = .rat 0 then .rat 0 else .mul x y

def refDiv : Number → Number → Number
  | .rat p, .rat q => .rat (p / q)
  | x, y => if x = .rat 0 then .rat 0 else .div x y

/-- The rational `q` of a number that is written as a product of `q` and pi. -/
def piCoefficient : Number → Option Rat
  | .pi => some 1
  | .mul x (.rat q) => (piCoefficient x).map (· * q)
  | .mul (.rat q) y => (piCoefficient y).map (q * ·)
  | _ => none

/-- The sine of `q` half turns, where it is 0, a half or 1 in magnitude. -/
def rationalSine (q : Rat) : Option Rat :=
  let r := q - 2 * ⌊q / 2⌋
  if r = 0 ∨ r = 1 then some 0
  else if r = 1 / 6 ∨ r = 5 / 6 then some (1 / 2)
  else if r = 1 / 2 then some 1
  else if r = 7 / 6 ∨ r = 11 / 6 then some (-1 / 2)
  else if r = 3 / 2 then some (-1)
  else none

/-- `SIN`. -/
def refSin (x : Number) : Number :=
  if x = .rat 0 then .rat 0
  else
    match (piCoefficient x).bind rationalSine with
    | some q => .rat q
    | none => .sin x

/-- `2^n` for an integer `n`. -/
def twoToInt (n : Int) : Rat :=
  if 0 ≤ n then ((2 ^ n.toNat : Nat) : Rat) else 1 / ((2 ^ (-n).toNat : Nat) : Rat)

/-- `EXP2`: `2^x`. -/
def refExp2 : Number → Number
  | .rat q => if q.den = 1 then .rat (twoToInt q.num) else .exp2 (.rat q)
  | x => .exp2 x

/-- The largest `r + d` with `d < 2^bits` whose `q`-th power is at most `n`, one bit at a time. -/
def rootBits (q n : Nat) : Nat → Nat → Nat
  | 0, r => r
  | bits + 1, r => rootBits q n bits (if (r + 2 ^ bits) ^ q ≤ n then r + 2 ^ bits else r)

/-- The natural number whose `q`-th power is `n`, where there is one (`q ≥ 1`). -/
def exactRoot (q n : Nat) : Option Nat :=
  if n ≤ 1 then some n
  else if Nat.log2 n < q then none
  else
    let r := rootBits q n (Nat.log2 n / q + 1) 0
    if r ^ q = n then some r else none

/-- `b^e` for rationals with `0 ≤ e`, where it is rational. -/
def rationalPower (b e : Rat) : Option Rat :=
  if e < 0 then none
  else if e.den = 1 then some (b ^ e.num.toNat)
  else if b < 0 then none
  else
    match exactRoot e.den b.num.toNat, exactRoot e.den b.den with
    | some n, some d => some (((n : Rat) / (d : Rat)) ^ e.num.toNat)
    | _, _ => none

/-- `POW`: `b^e` (R107, R108 call it with `b ≥ 0`, `e ≥ 0`, not both zero). -/
def refPow : Number → Number → Number
  | .rat b, .rat e =>
    match rationalPower b e with
    | some q => .rat q
    | none => .pow (.rat b) (.rat e)
  | b, e => .pow b e

/-- `NUM_REF` (R10). -/
def numRef : Numerics where
  add := refAdd
  sub := refSub
  mul := refMul
  div := refDiv
  floor := Number.floor
  sin := refSin
  pi := .pi
  exp2 := refExp2
  pow := refPow
  shortCircuit := false

/-! ### An implementation's arithmetic (R8, R10; assumption 2) -/

/-- A function of one real: it answers alike at two terms of one real. -/
def OfReal {α : Type} (f : Number → α) : Prop := ∀ x y : Number, x.toReal = y.toReal → f x = f y

/-- A function of two reals. -/
def OfReals (f : Number → Number → Number) : Prop :=
  ∀ x x' y y' : Number, x.toReal = x'.toReal → y.toReal = y'.toReal → f x y = f x' y'

/-- A function of one real with the named properties `EXP2_ZERO` and `EXP2_MONO` (R10). -/
def Exp2Lawful (f : Number → Number) : Prop :=
  OfReal f ∧ (∀ x : Number, x.toReal = 0 → (f x).toReal = 1) ∧
    ∀ x y : Number, x.toReal ≤ y.toReal → (f x).toReal ≤ (f y).toReal

/-- An arbitrary value that meets a law: `f` if it does, else `other`, which does. -/
def lawful {α : Type} (law : α → Prop) (f other : α) : α := if (decideReal (law f)).val = true then f else other

/-- An arbitrary arithmetic on the reals with the properties of R10. -/
def numImpl : Numerics where
  add := lawful OfReals Config.implAdd fun _ _ => .rat 0
  sub := lawful OfReals Config.implSub fun _ _ => .rat 0
  mul := lawful OfReals Config.implMul fun _ _ => .rat 0
  div := lawful OfReals Config.implDiv fun _ _ => .rat 0
  floor := lawful OfReal Config.implFloor fun _ => 0
  sin := lawful OfReal Config.implSin fun _ => .rat 0
  pi := Config.implPi
  exp2 := lawful Exp2Lawful Config.implExp2 fun _ => .rat 1
  pow := lawful OfReals Config.implPow fun _ _ => .rat 0
  shortCircuit := Config.implShortCircuit

/-- The record a choice names. -/
def numOf : NumChoice → Numerics
  | .ref => numRef
  | .impl => numImpl

/-- The numerics record of the block (R6). -/
def Params.numerics (p : Params) : Numerics := numOf p.num

/-! ### Operations that are exact under every record -/

/-- `-x`, the lower bound of R102. -/
def Number.neg (x : Number) : Number := refSub (.rat 0) x

/-! ### Draws -/

/-- A number in [0, 1), the fraction of any number; a number in [0, 1) is its own fraction. -/
def unitOf (x : Number) : Number := refSub x (.rat (Number.floor x))

end Sys2Proof.Machine
end

