-- ==== Sys2Proof/Machine/Ops.lean ====
section
/-! DEFINITION. The shared operations: naming a unit, writing one, publishing an output, drawing, taking a command from
the host, and refusing one. -/

namespace Sys2Proof.Machine

/-! ### Units -/

/-- R71: the unit a number names, where there are `n` units of the kind. -/
def unitIndex (n u : Nat) : Option (Fin 16) :=
  if h : u < n ∧ u < 16 then some ⟨u, h.2⟩ else none

def State.setOsc (s : State) (k : Fin 16) (o : OscUnit) : State := { s with osc := s.osc.set k o }
def State.setGain (s : State) (k : Fin 16) (g : GainUnit) : State := { s with gain := s.gain.set k g }
def State.setBern (s : State) (k : Fin 16) (b : BernUnit) : State := { s with bern := s.bern.set k b }
def State.setLogic (s : State) (k : Fin 16) (l : LogicUnit) : State := { s with logic := s.logic.set k l }

/-- Write the FM mode register of one oscillator and nothing else (R35). -/
def State.setFmMode (s : State) (k : Fin 16) (m : FmMode) : State :=
  s.setOsc k { s.osc[k] with fmMode := m }

/-- Hand a record to the host (R131); the host keeps them in order (R151). -/
def State.emit (s : State) (r : Record) : State := { s with emitted := s.emitted ++ [r] }

/-- Every unit at its reset value (R44, R135), the draws and the oracles where they stand. -/
def State.resetUnits (s : State) : State :=
  { s with
    osc := Vector.ofFn fun k : Fin 16 => .afterReset s.params.phaseInit[k] s.osc[k].draws
    gain := Vector.ofFn fun k : Fin 16 => .afterReset s.gain[k].draws
    bern := Vector.ofFn fun k : Fin 16 =>
      .afterReset s.params.bernInitLastHigh[k] s.params.bernInitLatch[k] s.bern[k].oracle
    logic := Vector.replicate 16 .afterReset }

/-! ### Output port registers -/

/-- Publish lanes `0..n-1` with channel count `n` (R53); the cells at or beyond `n` are not written (R52, R96). -/
def OutPort.publish (o : OutPort) (n : Nat) (cell : Fin 16 → Cell) : OutPort where
  ch := n
  cells := Vector.ofFn fun c : Fin 16 => if c.val < n then cell c else o.cells[c]

/-- Publish one value on a one-channel output (R53, R119, R127). -/
def OutPort.publishMono (o : OutPort) (v : Number) : OutPort := o.publish 1 fun _ => .val v

/-! ### Draws -/

/-- The unit kinds of R51. -/
def kindOsc : Nat := 0
def kindGain : Nat := 1
def kindBern : Nat := 2
def kindLogic : Nat := 3
def kindGlobal : Nat := 15

/-- `draw_any(Real)` for lane `c` of a tick whose unit has made `n` draws (R49). -/
def drawReal (kind : Nat) (k c : Fin 16) (n : Nat) : Number := Config.freeReal kind k.val (n + c.val)

/-- `draw_any([0,1))` for lane `c` of a tick whose unit has made `n` draws (R34). -/
def drawPhase (k c : Fin 16) (n : Nat) : Number := unitOf (Config.freeUnit kindOsc k.val (n + c.val))

/-- `draw_rand()` (R117): the next unused element of the unit's oracle, and the oracle after it. -/
def Oracle.draw (k : Fin 16) (o : Oracle) : Number × Oracle :=
  match o.named with
  | r :: rest => (r, ⟨rest, o.taken + 1⟩)
  | [] => (unitOf (Config.randTail k.val o.taken), ⟨[], o.taken + 1⟩)

/-! ### Taking a command, and refusing one -/

/-- The block takes a delivery from the host: its bus snapshot and record are the ones in force (R57, R132). -/
def State.take (s : State) (d : Delivery) (rest : List Delivery) : State :=
  { s with bus := d.bus, record := d.record, pending := rest, report := none }

/-- A refusal (R137, R138, R144): the mark is set, the reason and the word are reported, nothing else changes. -/
def State.refuse (s : State) (r : RefuseReason) (w : Word) : State :=
  { s with refused := true, report := some ⟨r, w⟩ }

/-- The end of a command (R60, R137): its new state, or a refusal. Either way the block goes on (R137). -/
def settle (w : Word) (s : State) : Except RefuseReason State → Host.Outcome State Fault Refusal
  | .ok t => .next t
  | .error r => .next (s.refuse r w)

/-- The host sends one more command, to be taken first. -/
def State.deliver (s : State) (d : Delivery) : State := { s with pending := d :: s.pending }

end Sys2Proof.Machine
end

