-- ==== Sys2Proof/Machine/Operands.lean ====
section
/-! DEFINITION. How a tick reads the input bus: ports and lanes (R46, R49, R50), controls, and the checks R138 to R141
make on what it reads. -/

namespace Sys2Proof.Machine

/-! ### Ports and lanes -/

/-- R139: the declared channel count is in 0..16. -/
def InPort.chOk (p : InPort) : Bool := decide (0 ≤ p.ch) && decide (p.ch ≤ 16)

/-- R46. -/
def InPort.connected (p : InPort) : Bool := decide (1 ≤ p.ch)

/-- R49, `inV(P, c)`: `drawn` is the value drawn for a lane beyond a polyphonic port's channels. -/
def InPort.read (p : InPort) (c : Fin 16) (dflt drawn : Number) : Value :=
  if p.ch = 0 then .fin dflt
  else if p.ch = 1 then p.lanes[0]
  else if (c.val : Int) < p.ch then p.lanes[c]
  else .fin drawn

/-- Lane 0 of a port a monophonic unit reads, with the default 0.0. Lane 0 is never beyond the channels of a connected
port, so no draw is made. -/
def InPort.readMono (p : InPort) : Value := p.read 0 (.rat 0) (.rat 0)

/-! ### Oscillator -/

/-- R85: the lane count. -/
def OscBus.lanes (b : OscBus) : Nat := max 1 b.pitch.ch.toNat

/-- R86: the active-lane count of group `g`, `clamp(N - 4g, 0, 4)`. -/
def groupActive (n g : Nat) : Nat := min (n - Config.group * g) Config.group

/-- R86: the number of groups processed, `ceil(N / 4)`. -/
def groupsProcessed (n : Nat) : Nat := (n + Config.group - 1) / Config.group

/-- The pitch and the FM value of lane `c` (R89). -/
def State.oscPitch (s : State) (k c : Fin 16) : Value :=
  s.bus.osc[k].pitch.read c (.rat 0) (drawReal kindOsc k c s.osc[k].draws)
def State.oscFm (s : State) (k c : Fin 16) : Value :=
  s.bus.osc[k].fm.read c (.rat 0) (drawReal kindOsc k c s.osc[k].draws)

/-- R139 for `TICK_OSC`. -/
def State.oscChannelsOk (s : State) (k : Fin 16) : Bool :=
  s.bus.osc[k].pitch.chOk && s.bus.osc[k].fm.chOk

/-- R140: the sample rate is not positive, or the depth is outside [-1, 1]. -/
def State.oscControlBad (s : State) (k : Fin 16) : Bool :=
  s.bus.sampleRate.test (fun x => Number.le x (.rat 0)) ||
    s.bus.osc[k].depth.test (fun x => Number.lt x (.rat (-1)) || Number.lt (.rat 1) x)

/-- R141 for `TICK_OSC`: every value the pseudocode of R94 reads is finite, the parameters among them (R9). -/
def State.oscReadsFinite (s : State) (k : Fin 16) : Bool :=
  s.bus.osc[k].depth.isFinite && s.bus.osc[k].odd.isFinite && s.bus.osc[k].even.isFinite &&
    s.bus.sampleTime.isFinite && s.bus.sampleRate.isFinite &&
    s.params.baseFreq.isFinite && s.params.oscOutScale.isFinite &&
    decide (∀ c : Fin 16, c.val < s.bus.osc[k].lanes →
      (s.oscPitch k c).isFinite = true ∧ (s.oscFm k c).isFinite = true)

/-! ### Gain stage -/

/-- R105: the lane count. -/
def GainBus.lanes (b : GainBus) : Nat := b.input.ch.toNat

/-- The signal and the CV value of lane `c` (R109, R110). -/
def State.gainIn (s : State) (k c : Fin 16) : Value :=
  s.bus.gain[k].input.read c (.rat 0) (drawReal kindGain k c s.gain[k].draws)
def State.gainCv (s : State) (k c : Fin 16) : Value :=
  s.bus.gain[k].cv.read c (.rat 0) (drawReal kindGain k c s.gain[k].draws)

/-- R139 for `TICK_GAIN`. -/
def State.gainChannelsOk (s : State) (k : Fin 16) : Bool :=
  s.bus.gain[k].input.chOk && s.bus.gain[k].cv.chOk

/-- R107: the level or the curve is negative. -/
def State.gainControlBad (s : State) (k : Fin 16) : Bool :=
  s.bus.gain[k].level.test (fun x => Number.lt x (.rat 0)) || s.bus.gain[k].curve.test (fun x => Number.lt x (.rat 0))

/-- R141 for `TICK_GAIN`. The CV lanes are read only when the CV is connected (R112). -/
def State.gainReadsFinite (s : State) (k : Fin 16) : Bool :=
  s.bus.gain[k].level.isFinite && s.bus.gain[k].curve.isFinite && s.bus.gain[k].offset.isFinite &&
    decide (∀ c : Fin 16, c.val < s.bus.gain[k].lanes →
      (s.gainIn k c).isFinite = true ∧
        (s.bus.gain[k].cv.connected = true → (s.gainCv k c).isFinite = true))

/-! ### Bernoulli unit and logic unit -/

/-- R139 for `TICK_BERN`. -/
def State.bernChannelsOk (s : State) (k : Fin 16) : Bool :=
  s.bus.bern[k].gate.chOk && s.bus.bern[k].prob.chOk

/-- R139 for `TICK_LOGIC`. -/
def State.logicChannelsOk (s : State) (k : Fin 16) : Bool :=
  s.bus.logic[k].a.chOk && s.bus.logic[k].b.chOk && s.bus.logic[k].x.chOk && s.bus.logic[k].y.chOk

/-- R141 for `TICK_LOGIC`. -/
def State.logicReadsFinite (s : State) (k : Fin 16) : Bool :=
  s.bus.logic[k].a.readMono.isFinite && s.bus.logic[k].b.readMono.isFinite &&
    s.bus.logic[k].x.readMono.isFinite && s.bus.logic[k].y.readMono.isFinite

end Sys2Proof.Machine
end

