-- ==== Sys2Proof/Machine/Flags.lean ====
section
/-! DEFINITION. The block has no condition flags (R30). What it computes in their place: the gate level and the edge
of a Bernoulli unit (R114, R115), the binarised inputs of a logic unit (R123). -/

namespace Sys2Proof.Machine

/-- R114, R123: a voltage is high when it is at or above 2.0; there is no hysteresis. -/
def isHigh (v : Number) : Bool := Number.le (.rat Config.gateThreshold) v

/-- R114: the gate level, from lane 0 of the gate. -/
def BernBus.gateHigh (b : BernBus) : Bool := isHigh b.gate.readMono.number

/-- R115: the tick fires when the gate is high and was not high on the tick before. -/
def fires (high lastHigh : Bool) : Bool := high && !lastHigh

/-- R115 for unit `k` of a state. -/
def State.bernFires (s : State) (k : Fin 16) : Bool := fires s.bus.bern[k].gateHigh s.bern[k].lastHigh

/-- R141 for `TICK_BERN`: the probability is read on a firing tick only, and when it is connected (R116, R120). -/
def State.bernReadsFinite (s : State) (k : Fin 16) : Bool :=
  s.bus.bern[k].gate.readMono.isFinite &&
    (!s.bernFires k || !s.bus.bern[k].prob.connected || s.bus.bern[k].prob.readMono.isFinite)

end Sys2Proof.Machine
end

