-- ==== Sys2Proof/Machine/Bernoulli.lean ====
section
/-! DEFINITION. The Bernoulli Decision Unit (R114 to R122) and the meaning of `TICK_BERN`. -/

namespace Sys2Proof.Machine

/-- R116: the probability, clamped to [0, 1]; 0.5 when the input is not connected. -/
def probability (N : Numerics) (connected : Bool) (v : Number) : Number :=
  if connected = true then clamp (N.div v (.rat Config.cvScale)) (.rat 0) (.rat 1) else .rat Config.probDefault

/-- R118: a draw strictly below the probability selects B. -/
def select (r p : Number) : Latch := if Number.lt r p = true then .b else .a

/-- R119: the voltage of output A. -/
def Latch.voltsA (l : Latch) : Number := .rat (if l = .a then Config.highV else Config.lowV)

/-- R119: the voltage of output B. -/
def Latch.voltsB (l : Latch) : Number := .rat (if l = .b then Config.highV else Config.lowV)

/-- R116 for unit `k` of a state. -/
def State.bernProb (s : State) (k : Fin 16) : Number :=
  probability s.params.numerics s.bus.bern[k].prob.connected s.bus.bern[k].prob.readMono.number

/-- R118: the latch after the tick. -/
def State.latchAfter (s : State) (k : Fin 16) : Latch :=
  if s.bernFires k = true then select (s.bern[k].oracle.draw k).1 (s.bernProb k) else s.bern[k].latch

/-- R117: a firing takes exactly one draw, any other tick none. -/
def State.oracleAfter (s : State) (k : Fin 16) : Oracle :=
  if s.bernFires k = true then (s.bern[k].oracle.draw k).2 else s.bern[k].oracle

/-- R120: unit `k` after its tick. -/
def State.bernAfter (s : State) (k : Fin 16) : BernUnit where
  lastHigh := s.bus.bern[k].gateHigh
  latch := s.latchAfter k
  outA := s.bern[k].outA.publishMono (s.latchAfter k).voltsA
  outB := s.bern[k].outB.publishMono (s.latchAfter k).voltsB
  oracle := s.oracleAfter k

/-- The body of R120, its checks in the order of R143. -/
def tickBern (u : Nat) (s : State) : Except RefuseReason State :=
  match unitIndex s.params.nBern u with
  | none => .error .noSuchUnit
  | some k =>
    if s.bernChannelsOk k = false then .error .channelRange
    else if s.bernReadsFinite k = false then .error .nonFinite
    else .ok (s.setBern k (s.bernAfter k))

/-- `TICK_BERN u` (R120). -/
def execTickBern (u : Nat) (s : State) : Host.Outcome State Fault Refusal :=
  settle (encode (.tickBern u)) s (tickBern u s)

end Sys2Proof.Machine
end

