-- ==== Sys2Proof/Machine/Control.lean ====
section
/-! DEFINITION. Mode selection, configuration and control (R128 to R135): `NOP`, `SETMODE`, `SAVECFG`, `LOADCFG`,
`RESET`. -/

namespace Sys2Proof.Machine

/-- R133: some member has exactly the key `FMmode` and the JSON integer 1 as its value. -/
def JsonMembers.hasModeOne : JsonMembers → Bool
  | .nil => false
  | .cons key value rest => (decide (key = "FMmode") && decide (value = .int 1)) || rest.hasModeOne

/-- The members of an object as a list, in order. -/
def JsonMembers.toList : JsonMembers → List (String × Json)
  | .nil => []
  | .cons key value rest => (key, value) :: rest.toList

/-- R133, `PARSE_FMMODE`. -/
def parseFmMode : Record → FmMode
  | .json (.obj members) => if members.hasModeOne = true then .linear else .exponential
  | _ => Config.fmModeDefault

/-- R76: the record `SAVECFG` emits for a mode: an object with the one member `FMmode`, a JSON integer. -/
def configRecord (m : FmMode) : Record := .json (.obj (.cons "FMmode" (.int m.toInt) .nil))

/-- `NOP` (R128): nothing. -/
def execNop (s : State) : Host.Outcome State Fault Refusal := .next s

/-- The body of R130. -/
def setMode (u : Nat) (m : FmMode) (s : State) : Except RefuseReason State :=
  match unitIndex s.params.nOsc u with
  | none => .error .noSuchUnit
  | some k => .ok (s.setFmMode k m)

/-- `SETMODE u, m` (R130). -/
def execSetMode (u : Nat) (m : FmMode) (s : State) : Host.Outcome State Fault Refusal :=
  settle (encode (.setMode u m)) s (setMode u m s)

/-- The body of R131. -/
def saveCfg (u : Nat) (s : State) : Except RefuseReason State :=
  match unitIndex s.params.nOsc u with
  | none => .error .noSuchUnit
  | some k => .ok (s.emit (configRecord s.osc[k].fmMode))

/-- `SAVECFG u` (R131). -/
def execSaveCfg (u : Nat) (s : State) : Host.Outcome State Fault Refusal :=
  settle (encode (.saveCfg u)) s (saveCfg u s)

/-- The body of R132: the record is the one the host handed over with the command. -/
def loadCfg (u : Nat) (s : State) : Except RefuseReason State :=
  match unitIndex s.params.nOsc u with
  | none => .error .noSuchUnit
  | some k => .ok (s.setFmMode k (parseFmMode s.record))

/-- `LOADCFG u` (R132). -/
def execLoadCfg (u : Nat) (s : State) : Host.Outcome State Fault Refusal :=
  settle (encode (.loadCfg u)) s (loadCfg u s)

/-- `RESET` (R135). The refusal mark, the parameters and the oracles stay. -/
def execReset (s : State) : Host.Outcome State Fault Refusal := .next s.resetUnits

end Sys2Proof.Machine
end

