-- ==== Sys2Proof/Machine/GainStage.lean ====
section
/-! DEFINITION. The Amplitude/Gain Stage (R105 to R113) and the meaning of `TICK_GAIN`. -/

namespace Sys2Proof.Machine

/-- R108: the base of the CV factor, `clamp((cv + offset)/10, 0, 1)`. -/
def cvBase (N : Numerics) (cv offset : Number) : Number :=
  clamp (N.div (N.add cv offset) (.rat Config.cvScale)) (.rat 0) (.rat 1)

/-- R106: the base gain, shared by every lane. -/
def State.baseGain (s : State) (k : Fin 16) : Number :=
  s.params.numerics.pow s.bus.gain[k].level.number s.bus.gain[k].curve.number

/-- R108: `x_c`. -/
def State.cvLaneBase (s : State) (k c : Fin 16) : Number :=
  cvBase s.params.numerics (s.gainCv k c).number s.bus.gain[k].offset.number

/-- R108: `k_c`; 1 when the CV is not connected. -/
def State.cvFactor (s : State) (k c : Fin 16) : Number :=
  if s.bus.gain[k].cv.connected = true then
    s.params.numerics.pow (s.cvLaneBase k c) s.bus.gain[k].curve.number
  else .rat 1

/-- R109: the lane's product, clamped to ±10. Under a rounding `NUM` the grouping `(in * g0) * k` is the model's choice:
R109 gives none (DESIGN CHOICE, assumption 27). -/
def gainOutput (N : Numerics) (x g0 kc : Number) : Number :=
  clamp (N.mul (N.mul x g0) kc) (.rat (-Config.gainLimit)) (.rat Config.gainLimit)

/-- R109: the value of lane `c`. -/
def State.gainLane (s : State) (k c : Fin 16) : Number :=
  gainOutput s.params.numerics (s.gainIn k c).number (s.baseGain k) (s.cvFactor k c)

/-- R107: level 0 with curve 0. -/
def State.levelZeroPow (s : State) (k : Fin 16) : Bool :=
  s.bus.gain[k].level.test (fun x => Number.eq x (.rat 0)) && s.bus.gain[k].curve.test (fun x => Number.eq x (.rat 0))

/-- R108: on lane `c`, a CV factor base of 0 with curve 0. -/
def State.cvZeroPow (s : State) (k c : Fin 16) : Bool :=
  s.bus.gain[k].cv.connected && s.bus.gain[k].curve.test (fun x => Number.eq x (.rat 0)) &&
    (s.gainCv k c).isFinite && s.bus.gain[k].offset.isFinite && Number.eq (s.cvLaneBase k c) (.rat 0)

/-- R107, R108: the refusal `ZeroPowZero`. -/
def State.gainZeroPow (s : State) (k : Fin 16) : Bool :=
  s.levelZeroPow k || decide (∃ c : Fin 16, c.val < s.bus.gain[k].lanes ∧ s.cvZeroPow k c = true)

/-- R112: what lane `c` publishes; no value when the output is not connected (R111). -/
def State.gainCell (s : State) (k c : Fin 16) : Cell :=
  if s.bus.gain[k].outConn = true then .val (s.gainLane k c) else .unspec

/-- R112: unit `k` after its tick. -/
def State.gainAfter (s : State) (k : Fin 16) : GainUnit where
  out := s.gain[k].out.publish s.bus.gain[k].lanes fun c => s.gainCell k c
  draws := s.gain[k].draws + 16

/-- The body of R112, its checks in the order of R143. -/
def tickGain (u : Nat) (s : State) : Except RefuseReason State :=
  match unitIndex s.params.nGain u with
  | none => .error .noSuchUnit
  | some k =>
    if s.gainChannelsOk k = false then .error .channelRange
    else if s.gainControlBad k = true then .error .controlRange
    else if s.gainZeroPow k = true then .error .zeroPowZero
    else if s.gainReadsFinite k = false then .error .nonFinite
    else .ok (s.setGain k (s.gainAfter k))

/-- `TICK_GAIN u` (R112). -/
def execTickGain (u : Nat) (s : State) : Host.Outcome State Fault Refusal :=
  settle (encode (.tickGain u)) s (tickGain u s)

end Sys2Proof.Machine
end

