-- ==== Sys2Proof/Machine/LogicUnit.lean ====
section
/-! DEFINITION. The Binary Logic Unit and the max/min selector (R123 to R127), and the meaning of `TICK_LOGIC`. -/

namespace Sys2Proof.Machine

/-- R124: the truth table, row by row: `(outA, outB)` for `A`, `B`. -/
def truthTable : Bool → Bool → Bool × Bool
  | false, false => (false, false)
  | false, true => (false, true)
  | true, false => (true, true)
  | true, true => (true, false)

/-- R125: the voltage of a binary output. -/
def logicVolts (b : Bool) : Number := .rat (if b = true then Config.logicHighV else Config.logicLowV)

/-- R124 for unit `k` of a state, on its binarised inputs (R123). -/
def State.logicBits (s : State) (k : Fin 16) : Bool × Bool :=
  truthTable (isHigh s.bus.logic[k].a.readMono.number) (isHigh s.bus.logic[k].b.readMono.number)

/-- R127: unit `k` after its tick; the selector passes its values through (R126). -/
def State.logicAfter (s : State) (k : Fin 16) : LogicUnit where
  outA := s.logic[k].outA.publishMono (logicVolts (s.logicBits k).1)
  outB := s.logic[k].outB.publishMono (logicVolts (s.logicBits k).2)
  max := s.logic[k].max.publishMono (Number.max s.bus.logic[k].x.readMono.number s.bus.logic[k].y.readMono.number)
  min := s.logic[k].min.publishMono (Number.min s.bus.logic[k].x.readMono.number s.bus.logic[k].y.readMono.number)

/-- The body of R127, its checks in the order of R143. -/
def tickLogic (u : Nat) (s : State) : Except RefuseReason State :=
  match unitIndex s.params.nLogic u with
  | none => .error .noSuchUnit
  | some k =>
    if s.logicChannelsOk k = false then .error .channelRange
    else if s.logicReadsFinite k = false then .error .nonFinite
    else .ok (s.setLogic k (s.logicAfter k))

/-- `TICK_LOGIC u` (R127). -/
def execTickLogic (u : Nat) (s : State) : Host.Outcome State Fault Refusal :=
  settle (encode (.tickLogic u)) s (tickLogic u s)

end Sys2Proof.Machine
end

