-- ==== Sys2Proof/Machine/FreqMapper.lean ====
section
/-! DEFINITION. The Frequency Mapper (R98 to R103). -/

namespace Sys2Proof.Machine

/-- R100: the clamp bound. -/
def freqBound (N : Numerics) (sr : Number) : Number := N.div sr (.rat Config.freqDiv)

/-- R101, before the clamp. -/
def freqExpRaw (N : Numerics) (base pitch fm d : Number) : Number := N.mul base (N.exp2 (N.add pitch (N.mul fm d)))

/-- R102, before the clamp; `BASE_FREQ * d * fm` from the left (assumption 27). -/
def freqLinRaw (N : Numerics) (base pitch fm d : Number) : Number :=
  N.add (N.mul base (N.exp2 pitch)) (N.mul (N.mul base d) fm)

/-- R98: `FREQ(mode, pitch, fm, d, sr)`. -/
def freq (N : Numerics) (base : Number) (mode : FmMode) (pitch fm d sr : Number) : Number :=
  match mode with
  | .exponential => clamp (freqExpRaw N base pitch fm d) (.rat 0) (freqBound N sr)
  | .linear => clamp (freqLinRaw N base pitch fm d) (Number.neg (freqBound N sr)) (freqBound N sr)

end Sys2Proof.Machine
end

