-- ==== Sys2Proof/Machine/Oscillator.lean ====
section
/-! DEFINITION. The Oscillator Bank (R85 to R97) and the meaning of `TICK_OSC`. -/

namespace Sys2Proof.Machine

/-- R88: advance the phase and wrap it by subtracting its floor. -/
def wrapPhase (N : Numerics) (phase f dt : Number) : Number :=
  let q := N.add phase (N.mul f dt)
  N.sub q (.rat (N.floor q))

/-- R90: a harmonic weight, clamped to [0, 1]. -/
def weight (v : Number) : Number := clamp v (.rat 0) (.rat 1)

/-- R91, `SIN(2*PI*p*i)`, its argument multiplied out from the left as R91 writes it; the fundamental is `SIN(2*PI*p)`
(assumption 27). -/
def sinTurn (N : Numerics) (p : Number) (i : Nat) : Number :=
  let angle := N.mul (N.mul (.rat 2) N.pi) p
  N.sin (if i = 1 then angle else N.mul angle (.rat i))

/-- R91, `W(i)`. -/
def harmonicWeight (o e : Number) (i : Nat) : Number := if i % 2 = 0 then e else o

/-- R91: the term of harmonic `i`, `W(i) * SIN(2*PI*p*i) / i` from the left (assumption 27). -/
def harmonicTerm (N : Numerics) (p o e : Number) (i : Nat) : Number :=
  N.div (N.mul (harmonicWeight o e i) (sinTurn N p i)) (.rat i)

/-- R91: harmonics 2 to 8. -/
def harmonicIndices : List Nat := [2, 3, 4, 5, 6, 7, 8]

/-- R91: the fundamental and harmonics 2 to 8, added in order (assumption 27). -/
def harmonicSum (N : Numerics) (p o e : Number) : Number :=
  harmonicIndices.foldl (fun acc i => N.add acc (harmonicTerm N p o e i)) (sinTurn N p 1)

/-- `HSUM(p, o, e)` (R91), with the short cut R92 allows an implementation. -/
def hsum (N : Numerics) (p o e : Number) : Number :=
  if N.shortCircuit = true ∧ Number.eq o (.rat 0) = true ∧ Number.eq e (.rat 0) = true then sinTurn N p 1 else harmonicSum N p o e

/-- R93: the output stage. -/
def oscOutput (N : Numerics) (scale p o e : Number) : Number :=
  clamp (N.mul scale (hsum N p o e)) (.rat (-Config.oscOutLimit)) (.rat Config.oscOutLimit)

/-- R89: the frequency of lane `c`. -/
def State.laneFreq (s : State) (k c : Fin 16) : Number :=
  freq s.params.numerics s.params.baseFreq.number s.osc[k].fmMode (s.oscPitch k c).number (s.oscFm k c).number
    s.bus.osc[k].depth.number s.bus.sampleRate.number

/-- R88: the phase of active lane `c` after the tick. -/
def State.lanePhase (s : State) (k c : Fin 16) : Number :=
  wrapPhase s.params.numerics s.osc[k].phase[c] (s.laneFreq k c) s.bus.sampleTime.number

/-- R93, R95: the value active lane `c` publishes, from its phase after the update. -/
def State.laneOutput (s : State) (k c : Fin 16) : Number :=
  oscOutput s.params.numerics s.params.oscOutScale.number (s.lanePhase k c)
    (weight s.bus.osc[k].odd.number) (weight s.bus.osc[k].even.number)

/-- R94: unit `k` after its tick; inactive lanes draw their phase (R96) and their cells are not written. -/
def State.oscAfter (s : State) (k : Fin 16) : OscUnit where
  phase := Vector.ofFn fun c : Fin 16 =>
    if c.val < s.bus.osc[k].lanes then s.lanePhase k c else drawPhase k c s.osc[k].draws
  fmMode := s.osc[k].fmMode
  out := s.osc[k].out.publish s.bus.osc[k].lanes fun c => .val (s.laneOutput k c)
  draws := s.osc[k].draws + 16

/-- The body of R94, its checks in the order of R143. -/
def tickOsc (u : Nat) (s : State) : Except RefuseReason State :=
  match unitIndex s.params.nOsc u with
  | none => .error .noSuchUnit
  | some k =>
    if s.oscChannelsOk k = false then .error .channelRange
    else if s.oscControlBad k = true then .error .controlRange
    else if s.oscReadsFinite k = false then .error .nonFinite
    else .ok (s.setOsc k (s.oscAfter k))

/-- `TICK_OSC u` (R94). -/
def execTickOsc (u : Nat) (s : State) : Host.Outcome State Fault Refusal :=
  settle (encode (.tickOsc u)) s (tickOsc u s)

/-! ### The same tick, a group of four lanes at a time (R86, R87) -/

/-- R86: lane `c` is processed when its slot is below the active-lane count of its group. -/
def laneInGroups (n : Nat) (c : Fin 16) : Bool :=
  decide (c.val / Config.group < groupsProcessed n) &&
    decide (c.val % Config.group < groupActive n (c.val / Config.group))

end Sys2Proof.Machine
end

