-- ==== Sys2Proof/Machine/Dispatch.lean ====
section
/-! DEFINITION. One arm per command. -/

namespace Sys2Proof.Machine

def exec (i : Instr) (s : State) : Host.Outcome State Fault Refusal :=
  match i with
  | .nop => Sys2Proof.Machine.execNop s
  | .tickOsc u => Sys2Proof.Machine.execTickOsc u s
  | .tickGain u => Sys2Proof.Machine.execTickGain u s
  | .tickBern u => Sys2Proof.Machine.execTickBern u s
  | .tickLogic u => Sys2Proof.Machine.execTickLogic u s
  | .setMode u m => Sys2Proof.Machine.execSetMode u m s
  | .saveCfg u => Sys2Proof.Machine.execSaveCfg u s
  | .loadCfg u => Sys2Proof.Machine.execLoadCfg u s
  | .reset => Sys2Proof.Machine.execReset s

end Sys2Proof.Machine
end

