-- ==== Sys2Proof/Machine/Step.lean ====
section
/-! DEFINITION. One step: take the host's next command and run it. -/

namespace Sys2Proof.Machine

/-- One step. The block takes the next command the host has sent and runs it (R59); a word that is no command refuses
with `ReservedEncoding` (R69, R70); with no command sent it holds its state (R150). -/
def step (s : State) : Host.Outcome State Fault Refusal :=
  match s.pending with
  | [] => .next s
  | d :: rest =>
    match decode d.word with
    | .ok i => exec i (s.take d rest)
    | .error _ => .next ((s.take d rest).refuse .reservedEncoding d.word)

/-- The host sends the word, with the bus and the record now in force, to be taken next (assumption 10). -/
def State.withFetchWord (s : State) (nbits w : Nat) : State :=
  s.deliver ⟨tableWord nbits w, s.bus, s.record⟩

end Sys2Proof.Machine
end

