-- ==== Sys2Proof/Machine/Ports.lean ====
section
/-! DEFINITION. The port map (R51) and the host's side of it: reading an output port register (R52, R54), driving the
input bus (R80), and the observation at the end of a run (R151). -/

namespace Sys2Proof.Machine

/-! ### The port map (R51): a port address is a unit kind, a unit number and a port number -/

/-- The unit a tick belongs to, as a kind and a number; no other command is a tick (R57). -/
def tickAddress : Instr → Option (Nat × Nat)
  | .tickOsc u => some (kindOsc, u)
  | .tickGain u => some (kindGain, u)
  | .tickBern u => some (kindBern, u)
  | .tickLogic u => some (kindLogic, u)
  | .nop => none
  | .setMode _ _ => none
  | .saveCfg _ => none
  | .loadCfg _ => none
  | .reset => none

/-- The output port register at an address. -/
def State.outPort (s : State) (kind u port : Nat) : Option OutPort :=
  match kind, port with
  | 0, 0 => (unitIndex s.params.nOsc u).map fun k => s.osc[k].out       -- OSC_OUT
  | 1, 0 => (unitIndex s.params.nGain u).map fun k => s.gain[k].out     -- GAIN_OUT
  | 2, 0 => (unitIndex s.params.nBern u).map fun k => s.bern[k].outA    -- BERN_OUTA
  | 2, 1 => (unitIndex s.params.nBern u).map fun k => s.bern[k].outB    -- BERN_OUTB
  | 3, 0 => (unitIndex s.params.nLogic u).map fun k => s.logic[k].outA  -- LOGIC_OUTA
  | 3, 1 => (unitIndex s.params.nLogic u).map fun k => s.logic[k].outB  -- LOGIC_OUTB
  | 3, 2 => (unitIndex s.params.nLogic u).map fun k => s.logic[k].max   -- LOGIC_MAX
  | 3, 3 => (unitIndex s.params.nLogic u).map fun k => s.logic[k].min   -- LOGIC_MIN
  | _, _ => none

/-- The input port at an address. -/
def Bus.inPort (b : Bus) (p : Params) (kind u port : Nat) : Option InPort :=
  match kind, port with
  | 0, 0 => (unitIndex p.nOsc u).map fun k => b.osc[k].pitch     -- OSC_PITCH
  | 0, 1 => (unitIndex p.nOsc u).map fun k => b.osc[k].fm        -- OSC_FM
  | 1, 0 => (unitIndex p.nGain u).map fun k => b.gain[k].input   -- GAIN_IN
  | 1, 1 => (unitIndex p.nGain u).map fun k => b.gain[k].cv      -- GAIN_CV
  | 2, 0 => (unitIndex p.nBern u).map fun k => b.bern[k].gate    -- BERN_GATE
  | 2, 1 => (unitIndex p.nBern u).map fun k => b.bern[k].prob    -- BERN_PROB
  | 3, 0 => (unitIndex p.nLogic u).map fun k => b.logic[k].a     -- LOGIC_A
  | 3, 1 => (unitIndex p.nLogic u).map fun k => b.logic[k].b     -- LOGIC_B
  | 3, 2 => (unitIndex p.nLogic u).map fun k => b.logic[k].x     -- LOGIC_X
  | 3, 3 => (unitIndex p.nLogic u).map fun k => b.logic[k].y     -- LOGIC_Y
  | _, _ => none

/-- The control at an address. R51 gives the two globals no unit number; that they stand at number 0, and that no control
stands at another, is the model's choice (DESIGN CHOICE, assumption 29). -/
def Bus.control (b : Bus) (p : Params) (kind u port : Nat) : Option Value :=
  match kind, port with
  | 0, 2 => (unitIndex p.nOsc u).map fun k => b.osc[k].depth     -- OSC_FMDEPTH
  | 0, 3 => (unitIndex p.nOsc u).map fun k => b.osc[k].odd       -- OSC_ODD
  | 0, 4 => (unitIndex p.nOsc u).map fun k => b.osc[k].even      -- OSC_EVEN
  | 1, 2 => (unitIndex p.nGain u).map fun k => b.gain[k].level   -- GAIN_LEVEL
  | 1, 3 => (unitIndex p.nGain u).map fun k => b.gain[k].curve   -- GAIN_CURVE
  | 1, 4 => (unitIndex p.nGain u).map fun k => b.gain[k].offset  -- GAIN_OFFSET
  | 15, 0 => if u = 0 then some b.sampleTime else none           -- G.sampleTime
  | 15, 1 => if u = 0 then some b.sampleRate else none           -- G.sampleRate
  | _, _ => none

/-- Whether the host has connected the output port at an address, `outConn(P)` (R52). -/
def Bus.outConn (b : Bus) (p : Params) (kind u port : Nat) : Option Bool :=
  match kind, port with
  | 0, 0 => (unitIndex p.nOsc u).map fun k => b.osc[k].outConn
  | 1, 0 => (unitIndex p.nGain u).map fun k => b.gain[k].outConn
  | 2, 0 => (unitIndex p.nBern u).map fun k => b.bern[k].outAConn
  | 2, 1 => (unitIndex p.nBern u).map fun k => b.bern[k].outBConn
  | 3, 0 => (unitIndex p.nLogic u).map fun k => b.logic[k].outAConn
  | 3, 1 => (unitIndex p.nLogic u).map fun k => b.logic[k].outBConn
  | 3, 2 => (unitIndex p.nLogic u).map fun k => b.logic[k].maxConn
  | 3, 3 => (unitIndex p.nLogic u).map fun k => b.logic[k].minConn
  | _, _ => none

/-! ### The host reads an output -/

/-- The host reads lane `c` of a register: nothing at or beyond the channel count (R52), a fault of the observation at
an `UNSPEC` cell below it (R54). -/
def OutPort.readLane (o : OutPort) (c : Fin 16) : Except Fault (Option Number) :=
  if c.val < o.ch then
    match o.cells[c] with
    | .val q => .ok (some q)
    | .unspec => .error .unspecRead
  else .ok none

/-- The host reads lane `c` of the output port register at an address. R58 says that the port map is all there is to
address and not what a read elsewhere answers; that it answers nothing, and is no fault, is the model's choice (DESIGN
CHOICE, assumption 30). -/
def hostRead (s : State) (kind u port : Nat) (c : Fin 16) : Except Fault (Option Number) :=
  match s.outPort kind u port with
  | some o => o.readLane c
  | none => .ok none

/-- R151: what is observed of a run, from its final state: the output port registers, the records emitted, the mark. -/
structure Observation where
  osc : List OutPort
  gain : List OutPort
  bern : List (OutPort × OutPort)
  logic : List (OutPort × OutPort × OutPort × OutPort)
  records : List Record
  refused : Bool
deriving DecidableEq, Repr

/-- The observation of a final state (R151), for the units that exist. -/
def State.observe (s : State) : Observation where
  osc := (s.osc.toList.take s.params.nOsc).map fun o => o.out
  gain := (s.gain.toList.take s.params.nGain).map fun g => g.out
  bern := (s.bern.toList.take s.params.nBern).map fun b => (b.outA, b.outB)
  logic := (s.logic.toList.take s.params.nLogic).map fun l => (l.outA, l.outB, l.max, l.min)
  records := s.emitted
  refused := s.refused

/-! ### The host drives the input bus -/

/-- An input port with the channel count and the lane values a listing gives. That the lanes it does not name hold 0 and that
values past the sixteenth are dropped is the model's choice (DESIGN CHOICE, assumption 18): R80 states no check. -/
def InPort.driven (ch : Int) (values : List Value) : InPort :=
  ⟨ch, Vector.ofFn fun c : Fin 16 => (values[c.val]?).getD (.ofRat 0)⟩

/-- The bus with another input port at an address; unchanged where the map has none (assumption 18). -/
def Bus.setInPort (b : Bus) (p : Params) (kind u port : Nat) (v : InPort) : Bus :=
  match kind, port, unitIndex (match kind with | 0 => p.nOsc | 1 => p.nGain | 2 => p.nBern | _ => p.nLogic) u with
  | 0, 0, some k => { b with osc := b.osc.set k { b.osc[k] with pitch := v } }
  | 0, 1, some k => { b with osc := b.osc.set k { b.osc[k] with fm := v } }
  | 1, 0, some k => { b with gain := b.gain.set k { b.gain[k] with input := v } }
  | 1, 1, some k => { b with gain := b.gain.set k { b.gain[k] with cv := v } }
  | 2, 0, some k => { b with bern := b.bern.set k { b.bern[k] with gate := v } }
  | 2, 1, some k => { b with bern := b.bern.set k { b.bern[k] with prob := v } }
  | 3, 0, some k => { b with logic := b.logic.set k { b.logic[k] with a := v } }
  | 3, 1, some k => { b with logic := b.logic.set k { b.logic[k] with b := v } }
  | 3, 2, some k => { b with logic := b.logic.set k { b.logic[k] with x := v } }
  | 3, 3, some k => { b with logic := b.logic.set k { b.logic[k] with y := v } }
  | _, _, _ => b

/-- The bus with another control at an address; unchanged where the map has none (assumption 18). The globals stand at unit
number 0 (DESIGN CHOICE, assumption 29). -/
def Bus.setControl (b : Bus) (p : Params) (kind u port : Nat) (v : Value) : Bus :=
  match kind, port, unitIndex (match kind with | 0 => p.nOsc | 1 => p.nGain | _ => 1) u with
  | 0, 2, some k => { b with osc := b.osc.set k { b.osc[k] with depth := v } }
  | 0, 3, some k => { b with osc := b.osc.set k { b.osc[k] with odd := v } }
  | 0, 4, some k => { b with osc := b.osc.set k { b.osc[k] with even := v } }
  | 1, 2, some k => { b with gain := b.gain.set k { b.gain[k] with level := v } }
  | 1, 3, some k => { b with gain := b.gain.set k { b.gain[k] with curve := v } }
  | 1, 4, some k => { b with gain := b.gain.set k { b.gain[k] with offset := v } }
  | 15, 0, some _ => { b with sampleTime := v }
  | 15, 1, some _ => { b with sampleRate := v }
  | _, _, _ => b

/-- The bus with another `outConn(P)` at an address; unchanged where the map has none (assumption 18). -/
def Bus.setOutConn (b : Bus) (p : Params) (kind u port : Nat) (v : Bool) : Bus :=
  match kind, port, unitIndex (match kind with | 0 => p.nOsc | 1 => p.nGain | 2 => p.nBern | _ => p.nLogic) u with
  | 0, 0, some k => { b with osc := b.osc.set k { b.osc[k] with outConn := v } }
  | 1, 0, some k => { b with gain := b.gain.set k { b.gain[k] with outConn := v } }
  | 2, 0, some k => { b with bern := b.bern.set k { b.bern[k] with outAConn := v } }
  | 2, 1, some k => { b with bern := b.bern.set k { b.bern[k] with outBConn := v } }
  | 3, 0, some k => { b with logic := b.logic.set k { b.logic[k] with outAConn := v } }
  | 3, 1, some k => { b with logic := b.logic.set k { b.logic[k] with outBConn := v } }
  | 3, 2, some k => { b with logic := b.logic.set k { b.logic[k] with maxConn := v } }
  | 3, 3, some k => { b with logic := b.logic.set k { b.logic[k] with minConn := v } }
  | _, _, _ => b

end Sys2Proof.Machine
end

