-- ==== Sys2Proof/Machine/Assembler.lean ====
section
/-! DEFINITION. The host's spellings of commands: assembly lines (R78), pseudo-instructions (R79), the mode menu (R77)
and listings with their directives (R80). No meaning of a command rests on this file. -/

namespace Sys2Proof.Machine

/-! ### The mode menu (R77) -/

/-- R77: the (label, value) list. -/
def menuLabels : List (String × FmMode) := [("Exponential", .exponential), ("LinearThroughZero", .linear)]

/-- R77: "apply selection" of a value. -/
def applySelection (u : Nat) (m : FmMode) : Instr := .setMode u m

/-! ### Pseudo-instructions (R79) -/

/-- `TICK_ALL`: one tick of every unit. -/
def tickAll (p : Params) : List Instr :=
  (List.range p.nOsc).map .tickOsc ++ (List.range p.nGain).map .tickGain ++
    (List.range p.nBern).map .tickBern ++ (List.range p.nLogic).map .tickLogic

/-! ### Assembly lines (R78), as lists of characters -/

/-- Why the assembler refuses a line (R78). -/
inductive AsmError where
  | badSpelling
  | outOfRange
deriving DecidableEq, Repr

def isBlank (c : Char) : Bool := c == ' ' || c == '\t'

/-- A text without the blanks at its ends. -/
def trimBlanks (t : List Char) : List Char := ((t.dropWhile isBlank).reverse.dropWhile isBlank).reverse

/-- The part of a line before its comment. -/
def dropComment (t : List Char) : List Char := t.takeWhile (· != ';')

/-- The value of a decimal digit. -/
def decDigit (c : Char) : Option Nat := if '0' ≤ c ∧ c ≤ '9' then some (c.toNat - 48) else none

/-- The value of a hexadecimal digit, in either case. -/
def hexDigit (c : Char) : Option Nat :=
  if '0' ≤ c ∧ c ≤ '9' then some (c.toNat - 48)
  else if 'a' ≤ c ∧ c ≤ 'f' then some (c.toNat - 87)
  else if 'A' ≤ c ∧ c ≤ 'F' then some (c.toNat - 55)
  else none

/-- The number the digits spell in a base, after the value read so far. -/
def readDigits (digit : Char → Option Nat) (base : Nat) : Nat → List Char → Option Nat
  | acc, [] => some acc
  | acc, c :: rest =>
    match digit c with
    | some d => readDigits digit base (base * acc + d) rest
    | none => none

/-- A decimal or `0x` hexadecimal integer (R78). -/
def readNumber : List Char → Option Nat
  | [] => none
  | '0' :: 'x' :: c :: rest => readDigits hexDigit 16 0 (c :: rest)
  | c :: rest => readDigits decDigit 10 0 (c :: rest)

/-- The operands of a line: the parts between commas; a line with no operand text has none. -/
def readOperands (t : List Char) : Option (List Nat) :=
  if trimBlanks t = [] then some []
  else (t.splitOn ',').mapM fun part => readNumber (trimBlanks part)

/-- A unit operand is at most 15 (R78). -/
def withUnit (u : Nat) (i : Instr) : Except AsmError (List Instr) :=
  if u ≤ 15 then .ok [i] else .error .outOfRange

/-- One assembly line: the commands it stands for (none for a blank line), or why it is refused. -/
def assembleLine (p : Params) (line : List Char) : Except AsmError (List Instr) :=
  let t := trimBlanks (dropComment line)
  if t = [] then .ok []
  else
    match t.takeWhile (!isBlank ·), readOperands (t.dropWhile (!isBlank ·)) with
    | ['N', 'O', 'P'], some [] => .ok [.nop]
    | ['T', 'I', 'C', 'K', '_', 'O', 'S', 'C'], some [u] => withUnit u (.tickOsc u)
    | ['T', 'I', 'C', 'K', '_', 'G', 'A', 'I', 'N'], some [u] => withUnit u (.tickGain u)
    | ['T', 'I', 'C', 'K', '_', 'B', 'E', 'R', 'N'], some [u] => withUnit u (.tickBern u)
    | ['T', 'I', 'C', 'K', '_', 'L', 'O', 'G', 'I', 'C'], some [u] => withUnit u (.tickLogic u)
    | ['S', 'E', 'T', 'M', 'O', 'D', 'E'], some [u, 0] => withUnit u (.setMode u .exponential)
    | ['S', 'E', 'T', 'M', 'O', 'D', 'E'], some [u, 1] => withUnit u (.setMode u .linear)
    | ['S', 'E', 'T', 'M', 'O', 'D', 'E'], some [_, _] => .error .outOfRange
    | ['S', 'A', 'V', 'E', 'C', 'F', 'G'], some [u] => withUnit u (.saveCfg u)
    | ['L', 'O', 'A', 'D', 'C', 'F', 'G'], some [u] => withUnit u (.loadCfg u)
    | ['R', 'E', 'S', 'E', 'T'], some [] => .ok [.reset]
    | ['S', 'E', 'T', 'M', 'O', 'D', 'E', '.', 'E', 'X', 'P'], some [u] => withUnit u (.setMode u .exponential)
    | ['S', 'E', 'T', 'M', 'O', 'D', 'E', '.', 'L', 'T', 'Z'], some [u] => withUnit u (.setMode u .linear)
    | ['T', 'I', 'C', 'K', '_', 'A', 'L', 'L'], some [] => .ok (tickAll p)
    | _, _ => .error .badSpelling

/-- The decimal spelling of a number. -/
def decimal (n : Nat) : List Char := Nat.toDigits 10 n

/-- The assembly line of a command (R78). -/
def asmText : Instr → List Char
  | .nop => ['N', 'O', 'P']
  | .tickOsc u => ['T', 'I', 'C', 'K', '_', 'O', 'S', 'C', ' '] ++ decimal u
  | .tickGain u => ['T', 'I', 'C', 'K', '_', 'G', 'A', 'I', 'N', ' '] ++ decimal u
  | .tickBern u => ['T', 'I', 'C', 'K', '_', 'B', 'E', 'R', 'N', ' '] ++ decimal u
  | .tickLogic u => ['T', 'I', 'C', 'K', '_', 'L', 'O', 'G', 'I', 'C', ' '] ++ decimal u
  | .setMode u .exponential => ['S', 'E', 'T', 'M', 'O', 'D', 'E', ' '] ++ decimal u ++ [',', ' ', '0']
  | .setMode u .linear => ['S', 'E', 'T', 'M', 'O', 'D', 'E', ' '] ++ decimal u ++ [',', ' ', '1']
  | .saveCfg u => ['S', 'A', 'V', 'E', 'C', 'F', 'G', ' '] ++ decimal u
  | .loadCfg u => ['L', 'O', 'A', 'D', 'C', 'F', 'G', ' '] ++ decimal u
  | .reset => ['R', 'E', 'S', 'E', 'T']

/-! ### Listings (R80) -/

/-- The host directives of a listing, their port names resolved by R51. A draw names its unit (assumption 5). -/
inductive Directive where
  | input (kind u port : Nat) (ch : Int) (values : List Value)
  | control (kind u port : Nat) (v : Value)
  | sampleTime (v : Value)
  | sampleRate (v : Value)
  | outConn (kind u port : Nat) (connected : Bool)
  | draw (u : Nat) (r : Number)
  | config (r : Record)
deriving DecidableEq, Repr

/-- A line of a listing: a directive to the host, or a command word. -/
inductive ListingLine where
  | directive (d : Directive)
  | word (w : Word)
deriving DecidableEq, Repr

/-- What the host holds between commands: the bus, and the record it would hand to the next `LOADCFG`. -/
structure HostSide where
  bus : Bus
  record : Record
deriving DecidableEq, Repr

/-- A directive changes what the host drives; a draw belongs to the oracle, not to the host. -/
def HostSide.apply (h : HostSide) (p : Params) : Directive → HostSide
  | .input kind u port ch values => { h with bus := h.bus.setInPort p kind u port (.driven ch values) }
  | .control kind u port v => { h with bus := h.bus.setControl p kind u port v }
  | .sampleTime v => { h with bus := { h.bus with sampleTime := v } }
  | .sampleRate v => { h with bus := { h.bus with sampleRate := v } }
  | .outConn kind u port v => { h with bus := h.bus.setOutConn p kind u port v }
  | .draw _ _ => h
  | .config r => { h with record := r }

/-- The deliveries a listing makes, each with the bus and the record of that moment. R80 gives a `.cfg` line for the next
`LOADCFG` and says nothing of a later one before another `.cfg` line; that it gets the same record again is the model's
choice (DESIGN CHOICE, assumption 26). -/
def listingDeliveries (p : Params) : HostSide → List ListingLine → List Delivery
  | _, [] => []
  | h, .directive d :: rest => listingDeliveries p (h.apply p d) rest
  | h, .word w :: rest => ⟨w, h.bus, h.record⟩ :: listingDeliveries p h rest

/-- The draws a listing names for a unit, in order. -/
def listingDraws (u : Nat) : List ListingLine → List Number
  | [] => []
  | .directive (.draw v r) :: rest => if v = u then r :: listingDraws u rest else listingDraws u rest
  | _ :: rest => listingDraws u rest

/-- The host sends a listing: its commands join those pending, its draws join the oracles' sequences (R80).
R80 states no check on a `.draw` value; that one outside the [0, 1) of R117 is appended as it stands, and compared by
`TICK_BERN` as it stands, is the model's choice (DESIGN CHOICE, assumption 28). That its directives start from the bus and
the record of the command last taken, also while others are pending, and that those after its last command have no effect
but the draws, is too (DESIGN CHOICE, assumption 31). -/
def State.loadListing (s : State) (lines : List ListingLine) : State :=
  { s with
    pending := s.pending ++ listingDeliveries s.params ⟨s.bus, s.record⟩ lines
    bern := Vector.ofFn fun k : Fin 16 =>
      { s.bern[k] with
        oracle := { s.bern[k].oracle with named := s.bern[k].oracle.named ++ listingDraws k.val lines } } }

end Sys2Proof.Machine
end

