-- ==== Sys2Proof/Safety.lean ====
section
/-! DEFINITION. What counts as a safe run (R151), and the invariants claims are stated with. -/

namespace Sys2Proof.Machine

/-- R6: the parameters lie in the ranges the spec gives them. -/
def Params.wf (p : Params) : Prop :=
  (1 ≤ p.nOsc ∧ p.nOsc ≤ 16) ∧ (1 ≤ p.nGain ∧ p.nGain ≤ 16) ∧ (1 ≤ p.nBern ∧ p.nBern ≤ 16) ∧
    (1 ≤ p.nLogic ∧ p.nLogic ≤ 16) ∧
    (∃ f, p.baseFreq = .fin f ∧ 0 < f.toReal) ∧ p.oscOutScale.isFinite = true ∧
    ∀ k c : Fin 16, 0 ≤ p.phaseInit[k][c].toReal ∧ p.phaseInit[k][c].toReal < 1

/-- R33: every phase lies in [0, 1). -/
def PhasesWrapped (s : State) : Prop :=
  ∀ k c : Fin 16, 0 ≤ s.osc[k].phase[c].toReal ∧ s.osc[k].phase[c].toReal < 1

/-- R41, R50: every output port register's channel count is in 0..16. -/
def ChannelCountsInRange (s : State) : Prop :=
  ∀ k : Fin 16, s.osc[k].out.ch ≤ 16 ∧ s.gain[k].out.ch ≤ 16 ∧ s.bern[k].outA.ch ≤ 16 ∧ s.bern[k].outB.ch ≤ 16 ∧
    s.logic[k].outA.ch ≤ 16 ∧ s.logic[k].outB.ch ≤ 16 ∧ s.logic[k].max.ch ≤ 16 ∧ s.logic[k].min.ch ≤ 16

/-- R117: every draw the host has named lies in [0, 1). -/
def DrawsInRange (s : State) : Prop :=
  ∀ k : Fin 16, ∀ r ∈ s.bern[k].oracle.named, 0 ≤ r.toReal ∧ r.toReal < 1

/-- A cell is empty or holds a number with the property. -/
def Cell.holds (f : ℝ → Prop) : Cell → Prop
  | .unspec => True
  | .val x => f x.toReal

/-- R93, R109: a published oscillator or gain value lies within ±10. -/
def WithinLimit (o : OutPort) : Prop := ∀ c : Fin 16, o.cells[c].holds fun q => -10 ≤ q ∧ q ≤ 10

/-- R119, R125: a published binary output is at 0.0 or 10.0. -/
def BinaryLevels (o : OutPort) : Prop := ∀ c : Fin 16, o.cells[c].holds fun q => q = 0 ∨ q = 10

/-- R93, R109, R119, R125: what the output port registers may hold. The max/min selector's outputs are not bounded (R126). -/
def OutputsInRange (s : State) : Prop :=
  ∀ k : Fin 16, WithinLimit s.osc[k].out ∧ WithinLimit s.gain[k].out ∧ BinaryLevels s.bern[k].outA ∧
    BinaryLevels s.bern[k].outB ∧ BinaryLevels s.logic[k].outA ∧ BinaryLevels s.logic[k].outB

/-- The invariant of the block. The phases are wrapped under the reference arithmetic only (R33). -/
def Inv (s : State) : Prop :=
  s.params.wf ∧ ChannelCountsInRange s ∧ DrawsInRange s ∧ OutputsInRange s ∧
    (s.params.num = .ref → PhasesWrapped s)

/-- R151: a run has met no refusal. -/
def Safe (s : State) : Prop := s.refused = false

/-- R151: a lane a claim may read: below its port's channel count and holding a number. -/
def Readable (o : OutPort) (c : Fin 16) : Prop := ∃ q, o.readLane c = .ok (some q)

/-! ### When a tick runs normally: every condition of its rule that would refuse is absent -/

/-- R94, R139 to R141: what `TICK_OSC` asks of the bus and the parameters. -/
def OscReady (s : State) (k : Fin 16) : Prop :=
  (0 ≤ s.bus.osc[k].pitch.ch ∧ s.bus.osc[k].pitch.ch ≤ 16) ∧
  (0 ≤ s.bus.osc[k].fm.ch ∧ s.bus.osc[k].fm.ch ≤ 16) ∧
  (∃ sr, s.bus.sampleRate = .fin sr ∧ 0 < sr.toReal) ∧
  (∃ d, s.bus.osc[k].depth = .fin d ∧ -1 ≤ d.toReal ∧ d.toReal ≤ 1) ∧
  (∃ q, s.bus.osc[k].odd = .fin q) ∧ (∃ q, s.bus.osc[k].even = .fin q) ∧ (∃ q, s.bus.sampleTime = .fin q) ∧
  (∃ q, s.params.baseFreq = .fin q) ∧ (∃ q, s.params.oscOutScale = .fin q) ∧
  ∀ c : Fin 16, c.val < s.bus.osc[k].lanes →
    (∃ q, s.oscPitch k c = .fin q) ∧ ∃ q, s.oscFm k c = .fin q

/-- R107, R108, R112, R139, R141: what `TICK_GAIN` asks of the bus. -/
def GainReady (s : State) (k : Fin 16) : Prop :=
  (0 ≤ s.bus.gain[k].input.ch ∧ s.bus.gain[k].input.ch ≤ 16) ∧
  (0 ≤ s.bus.gain[k].cv.ch ∧ s.bus.gain[k].cv.ch ≤ 16) ∧
  (∃ q, s.bus.gain[k].offset = .fin q) ∧
  ∃ l e, s.bus.gain[k].level = .fin l ∧ s.bus.gain[k].curve = .fin e ∧ 0 ≤ l.toReal ∧ 0 ≤ e.toReal ∧
      ¬(l.toReal = 0 ∧ e.toReal = 0) ∧
    ∀ c : Fin 16, c.val < s.bus.gain[k].lanes →
      (∃ q, s.gainIn k c = .fin q) ∧
        (1 ≤ s.bus.gain[k].cv.ch → (∃ q, s.gainCv k c = .fin q) ∧ ¬(e.toReal = 0 ∧ (s.cvLaneBase k c).toReal = 0))

/-- R120, R139, R141: what `TICK_BERN` asks of the bus; the probability is read on a firing tick only. -/
def BernReady (s : State) (k : Fin 16) : Prop :=
  (0 ≤ s.bus.bern[k].gate.ch ∧ s.bus.bern[k].gate.ch ≤ 16) ∧
  (0 ≤ s.bus.bern[k].prob.ch ∧ s.bus.bern[k].prob.ch ≤ 16) ∧
  (∃ q, s.bus.bern[k].gate.readMono = .fin q) ∧
  (s.bernFires k = true → 1 ≤ s.bus.bern[k].prob.ch → ∃ q, s.bus.bern[k].prob.readMono = .fin q)

/-- R127, R139, R141: what `TICK_LOGIC` asks of the bus. -/
def LogicReady (s : State) (k : Fin 16) : Prop :=
  ((0 ≤ s.bus.logic[k].a.ch ∧ s.bus.logic[k].a.ch ≤ 16) ∧ ∃ q, s.bus.logic[k].a.readMono = .fin q) ∧
  ((0 ≤ s.bus.logic[k].b.ch ∧ s.bus.logic[k].b.ch ≤ 16) ∧ ∃ q, s.bus.logic[k].b.readMono = .fin q) ∧
  ((0 ≤ s.bus.logic[k].x.ch ∧ s.bus.logic[k].x.ch ≤ 16) ∧ ∃ q, s.bus.logic[k].x.readMono = .fin q) ∧
  ((0 ≤ s.bus.logic[k].y.ch ∧ s.bus.logic[k].y.ch ≤ 16) ∧ ∃ q, s.bus.logic[k].y.readMono = .fin q)

/-! ### Frames: everything in the state but one unit is unchanged -/

/-- Nothing outside the unit files changed. -/
def SameOutsideUnits (s t : State) : Prop :=
  t.params = s.params ∧ t.refused = s.refused ∧ t.bus = s.bus ∧ t.record = s.record ∧ t.pending = s.pending ∧
    t.emitted = s.emitted ∧ t.report = s.report

/-- Only oscillator `k` may have changed. -/
def FrameOsc (k : Fin 16) (s t : State) : Prop :=
  SameOutsideUnits s t ∧ (∀ j : Fin 16, j ≠ k → t.osc[j] = s.osc[j]) ∧ t.gain = s.gain ∧ t.bern = s.bern ∧
    t.logic = s.logic

/-- Only gain stage `k` may have changed. -/
def FrameGain (k : Fin 16) (s t : State) : Prop :=
  SameOutsideUnits s t ∧ (∀ j : Fin 16, j ≠ k → t.gain[j] = s.gain[j]) ∧ t.osc = s.osc ∧ t.bern = s.bern ∧
    t.logic = s.logic

/-- Only Bernoulli unit `k` may have changed. -/
def FrameBern (k : Fin 16) (s t : State) : Prop :=
  SameOutsideUnits s t ∧ (∀ j : Fin 16, j ≠ k → t.bern[j] = s.bern[j]) ∧ t.osc = s.osc ∧ t.gain = s.gain ∧
    t.logic = s.logic

/-- Only logic unit `k` may have changed. -/
def FrameLogic (k : Fin 16) (s t : State) : Prop :=
  SameOutsideUnits s t ∧ (∀ j : Fin 16, j ≠ k → t.logic[j] = s.logic[j]) ∧ t.osc = s.osc ∧ t.gain = s.gain ∧
    t.bern = s.bern

/-- A refusal (R137): the mark is set, the reason and the word are reported, and nothing else changed. -/
def RefusedWith (r : RefuseReason) (w : Word) (s t : State) : Prop :=
  t.refused = true ∧ t.report = some ⟨r, w⟩ ∧ t.params = s.params ∧ t.osc = s.osc ∧ t.gain = s.gain ∧
    t.bern = s.bern ∧ t.logic = s.logic ∧ t.bus = s.bus ∧ t.record = s.record ∧ t.pending = s.pending ∧
    t.emitted = s.emitted

/-- Every unit holds the reset values of R44, for the parameters the state carries. -/
def AtResetValues (s : State) : Prop :=
  ∀ k : Fin 16,
    (∀ c : Fin 16, s.osc[k].phase[c] = s.params.phaseInit[k][c]) ∧ s.osc[k].fmMode = .exponential ∧
    s.bern[k].lastHigh = s.params.bernInitLastHigh[k] ∧ s.bern[k].latch = s.params.bernInitLatch[k] ∧
    ∀ o ∈ [s.osc[k].out, s.gain[k].out, s.bern[k].outA, s.bern[k].outB, s.logic[k].outA, s.logic[k].outB,
        s.logic[k].max, s.logic[k].min], o.ch = 0 ∧ ∀ c : Fin 16, o.cells[c] = .unspec

/-- The outputs of a Bernoulli unit show its latch (R119), or hold nothing yet (R154). -/
def OutputsFollowLatch (b : BernUnit) : Prop :=
  (b.outA.ch = 0 ∧ b.outB.ch = 0) ∨
    (b.outA.ch = 1 ∧ b.outB.ch = 1 ∧ b.outA.cells[0] = .val (.rat (if b.latch = .a then 10 else 0)) ∧
      b.outB.cells[0] = .val (.rat (if b.latch = .b then 10 else 0)))

end Sys2Proof.Machine
end

