-- ==== Sys2Proof/Certificates/Slice0/Obligations.lean ====
section
/-! DEFINITION. The statements for the provers. Each docstring names the rule it formalises. -/

open Sys2Proof Sys2Proof.Machine

/-! ### Encoding and decoding -/

/-- R68, V20: words written out bit by bit from the encodings of the nine commands, and the commands they stand for. -/
def Obligations.TableWordsDecode : Prop :=
  decode 0b0000000000000000#16 = .ok .nop ∧ decode 0b0001001100000000#16 = .ok (.tickOsc 3) ∧
  decode 0b0010111100000000#16 = .ok (.tickGain 15) ∧ decode 0b0011000000000000#16 = .ok (.tickBern 0) ∧
  decode 0b0100101000000000#16 = .ok (.tickLogic 10) ∧ decode 0b0101000100000001#16 = .ok (.setMode 1 .linear) ∧
  decode 0b0101000000000000#16 = .ok (.setMode 0 .exponential) ∧ decode 0b0110010000000000#16 = .ok (.saveCfg 4) ∧
  decode 0b0111000100000000#16 = .ok (.loadCfg 1) ∧ decode 0b1000000000000000#16 = .ok .reset

/-- R65 to R68, R55: the decoder reads back every well-formed command from its word, and from its bytes on a stream. -/
def Obligations.DecodeReadsBackEncode : Prop :=
  ∀ (i : Instr) (rest : List Byte), i.wellFormed = true →
    decode (encode i) = .ok i ∧ decodeBytes (encodeBytes i ++ rest) = .ok (i, rest)

/-- R69, R73: each command has one word only: whatever a word decodes to is well formed and has that word. -/
def Obligations.EncodeReadsBackDecode : Prop :=
  ∀ (w : Word) (i : Instr), decode w = .ok i → i.wellFormed = true ∧ encode i = w

/-- R68, R74: a word that meets a row's match and mask decodes to that row's command and meets no other row; a word
that meets none is illegal, by R69 when its `op` is at most 8 and by R70 otherwise. -/
def Obligations.DecoderFollowsOpcodeMap : Prop :=
  ∀ w : Word,
    (∀ r ∈ opcodeMap, (w &&& r.mask) = r.pattern →
      (∃ i, decode w = .ok i ∧ i.row = r) ∧ ∀ q ∈ opcodeMap, (w &&& q.mask) = q.pattern → q = r) ∧
    ((∀ r ∈ opcodeMap, (w &&& r.mask) ≠ r.pattern) →
      decode w = .error (if w.toNat / 4096 ≤ 8 then .mustBeZero else .reservedOpcode))

/-! ### The step -/

/-- R59, R65: when the next command the host has sent decodes to `i`, a step is `i` on the state in which that command
was taken: its bus and record are in force, the commands after it are pending, the report is clear, the rest is as it was. -/
def Obligations.StepRunsDecodedCommand : Prop :=
  ∀ (s : State) (d : Delivery) (rest : List Delivery) (i : Instr),
    s.pending = d :: rest → decode d.word = .ok i →
    ∃ s', step s = exec i s' ∧ s'.bus = d.bus ∧ s'.record = d.record ∧ s'.pending = rest ∧ s'.report = none ∧
      s'.params = s.params ∧ s'.osc = s.osc ∧ s'.gain = s.gain ∧ s'.bern = s.bern ∧ s'.logic = s.logic ∧
      s'.refused = s.refused ∧ s'.emitted = s.emitted

/-- R69, R70: a word that meets no row of the opcode map refuses with `ReservedEncoding`; the refusal mark is set, the
word is reported, and nothing else the block holds changes. -/
def Obligations.ReservedWordRefuses : Prop :=
  ∀ (s : State) (d : Delivery) (rest : List Delivery),
    s.pending = d :: rest → (∀ r ∈ opcodeMap, (d.word &&& r.mask) ≠ r.pattern) →
    ∃ t, step s = .next t ∧ t.refused = true ∧ t.report = some ⟨.reservedEncoding, d.word⟩ ∧ t.pending = rest ∧
      t.params = s.params ∧ t.osc = s.osc ∧ t.gain = s.gain ∧ t.bern = s.bern ∧ t.logic = s.logic ∧
      t.emitted = s.emitted

/-- R150: with no command sent, the block holds its state. -/
def Obligations.IdleHoldsState : Prop :=
  ∀ s : State, s.pending = [] → step s = .next s

/-- R136: no step ends in a fault or stops the machine. -/
def Obligations.EveryStepAnswersNext : Prop :=
  ∀ s : State, ∃ t, step s = .next t

/-- R137: when a step reports a refusal, it wrote no unit, no output register and no oracle position, it emitted
nothing, the mark is set, the reported word is the command's (R138), the block goes on with the next command, and the
next step keeps the mark. -/
def Obligations.RefusedStepChangesNothingElse : Prop :=
  ∀ (s t : State) (d : Delivery) (rest : List Delivery) (r : Report),
    s.pending = d :: rest → step s = .next t → t.report = some r →
    r.word = d.word ∧ t.refused = true ∧ t.osc = s.osc ∧ t.gain = s.gain ∧ t.bern = s.bern ∧ t.logic = s.logic ∧
      t.params = s.params ∧ t.emitted = s.emitted ∧ t.pending = rest ∧ ∃ t', step t = .next t' ∧ t'.refused = true

/-- R42: the refusal mark is set by exactly the steps that refuse, no step clears it, and it is false at construction. -/
def Obligations.RefusalMarkIsSticky : Prop :=
  (∀ (s t : State) (d : Delivery) (rest : List Delivery), s.pending = d :: rest → step s = .next t →
    (t.refused = true ↔ s.refused = true ∨ t.report ≠ none)) ∧
  (∀ s t : State, step s = .next t → s.refused = true → t.refused = true) ∧
  (∀ p : Params, (State.construct p).refused = false)

/-- R71: a command whose unit number is at or above the count of its kind refuses with `NoSuchUnit`. -/
def Obligations.UnknownUnitRefuses : Prop :=
  ∀ (s : State) (u : Nat) (m : FmMode),
    (s.params.nOsc ≤ u → ∀ i ∈ [Instr.tickOsc u, .setMode u m, .saveCfg u, .loadCfg u],
      ∃ t, exec i s = .next t ∧ RefusedWith .noSuchUnit (encode i) s t) ∧
    (s.params.nGain ≤ u → ∃ t, exec (.tickGain u) s = .next t ∧ RefusedWith .noSuchUnit (encode (.tickGain u)) s t) ∧
    (s.params.nBern ≤ u → ∃ t, exec (.tickBern u) s = .next t ∧ RefusedWith .noSuchUnit (encode (.tickBern u)) s t) ∧
    (s.params.nLogic ≤ u →
      ∃ t, exec (.tickLogic u) s = .next t ∧ RefusedWith .noSuchUnit (encode (.tickLogic u)) s t)

/-! ### Control commands -/

/-- R128: `NOP` is the word 0x0000, it changes nothing, and any other word with `op = 0` refuses. -/
def Obligations.NopChangesNothing : Prop :=
  encode .nop = 0x0000#16 ∧ (∀ s : State, exec .nop s = .next s) ∧
  ∀ (s : State) (d : Delivery) (rest : List Delivery), s.pending = d :: rest → d.word.toNat / 4096 = 0 →
    d.word ≠ 0x0000#16 → ∃ t, step s = .next t ∧ RefusedWith .reservedEncoding d.word (s.take d rest) t

/-- R130: `SETMODE u, m` has the word 0101 uuuu 0000 000m and writes the mode register of the oscillator and nothing
else; a unit there is not refuses with `NoSuchUnit`, a non-zero `imm[7:1]` with `ReservedEncoding`. -/
def Obligations.SetModeWritesModeOnly : Prop :=
  (∀ (s : State) (d : Delivery) (rest : List Delivery), s.pending = d :: rest → d.word.toNat / 4096 = 5 →
    (d.word &&& 0x00FE#16) ≠ 0#16 →
    ∃ t, step s = .next t ∧ RefusedWith .reservedEncoding d.word (s.take d rest) t) ∧
  (∀ (s : State) (u : Nat) (m : FmMode), s.params.nOsc ≤ u →
    ∃ t, exec (.setMode u m) s = .next t ∧ RefusedWith .noSuchUnit (encode (.setMode u m)) s t) ∧
  ∀ (s : State) (k : Fin 16) (m : FmMode),
    (encode (.setMode k.val m)).toNat = 5 * 4096 + k.val * 256 + (if m = .linear then 1 else 0) ∧
    (k.val < s.params.nOsc → ∃ t, exec (.setMode k.val m) s = .next t ∧ FrameOsc k s t ∧ t.osc[k].fmMode = m ∧
      t.osc[k].phase = s.osc[k].phase ∧ t.osc[k].out = s.osc[k].out ∧ t.osc[k].draws = s.osc[k].draws)

/-- R131: `SAVECFG u` has the word 0110 uuuu 0000 0000; it hands the host the object with the one member `FMmode`, the
mode as a JSON integer, and writes no state; a unit there is not refuses with `NoSuchUnit`. -/
def Obligations.SaveCfgEmitsModeRecord : Prop :=
  (∀ (s : State) (u : Nat), s.params.nOsc ≤ u →
    ∃ t, exec (.saveCfg u) s = .next t ∧ RefusedWith .noSuchUnit (encode (.saveCfg u)) s t) ∧
  ∀ (s : State) (k : Fin 16), (encode (.saveCfg k.val)).toNat = 6 * 4096 + k.val * 256 ∧ (k.val < s.params.nOsc →
    ∃ t, exec (.saveCfg k.val) s = .next t ∧
      t.emitted = s.emitted ++
        [.json (.obj (.cons "FMmode" (.int (if s.osc[k].fmMode = .linear then 1 else 0)) .nil))] ∧
      t.params = s.params ∧ t.osc = s.osc ∧ t.gain = s.gain ∧ t.bern = s.bern ∧ t.logic = s.logic ∧
      t.refused = s.refused ∧ t.bus = s.bus ∧ t.record = s.record ∧ t.pending = s.pending ∧ t.report = s.report)

/-- R132: `LOADCFG u` has the word 0111 uuuu 0000 0000 and writes the mode read from the host's record and nothing
else, whatever the record; a unit there is not refuses with `NoSuchUnit`. -/
def Obligations.LoadCfgWritesParsedMode : Prop :=
  (∀ (s : State) (u : Nat), s.params.nOsc ≤ u →
    ∃ t, exec (.loadCfg u) s = .next t ∧ RefusedWith .noSuchUnit (encode (.loadCfg u)) s t) ∧
  ∀ (s : State) (k : Fin 16), (encode (.loadCfg k.val)).toNat = 7 * 4096 + k.val * 256 ∧ (k.val < s.params.nOsc →
    ∃ t, exec (.loadCfg k.val) s = .next t ∧ FrameOsc k s t ∧ t.osc[k].fmMode = parseFmMode s.record ∧
      t.osc[k].phase = s.osc[k].phase ∧ t.osc[k].out = s.osc[k].out ∧ t.osc[k].draws = s.osc[k].draws)

/-- R133: the record loads 1 when it is an object with a member whose key is exactly `FMmode` and whose value is the
JSON integer 1, and 0 in every other case. -/
def Obligations.ParseFmModeRule : Prop :=
  ∀ r : Record,
    ((∃ ms : JsonMembers, r = .json (.obj ms) ∧ ("FMmode", Json.int 1) ∈ ms.toList) → parseFmMode r = .linear) ∧
    ((¬∃ ms : JsonMembers, r = .json (.obj ms) ∧ ("FMmode", Json.int 1) ∈ ms.toList) → parseFmMode r = .exponential)

/-- R134: setting a mode and saving it emits the record of that mode; handing that record back loads the mode, whatever
was set meanwhile; a record without the field loads 0. -/
def Obligations.ConfigRoundTrip : Prop :=
  ∀ (s : State) (k : Fin 16) (m : FmMode), k.val < s.params.nOsc →
    (∃ s₁ s₂ r, exec (.setMode k.val m) s = .next s₁ ∧ exec (.saveCfg k.val) s₁ = .next s₂ ∧
      r = .json (.obj (.cons "FMmode" (.int (if m = .linear then 1 else 0)) .nil)) ∧ s₂.emitted = s.emitted ++ [r] ∧
      ∀ s₃ : State, s₃.params = s.params → s₃.record = r →
        ∃ t, exec (.loadCfg k.val) s₃ = .next t ∧ t.osc[k].fmMode = m) ∧
    ∀ ms : JsonMembers, s.record = .json (.obj ms) → (∀ e ∈ ms.toList, e.1 ≠ "FMmode") →
      ∃ t, exec (.loadCfg k.val) s = .next t ∧ t.osc[k].fmMode = .exponential

/-- R135: `RESET` is the word 0x8000, any other word with `op = 8` refuses; it gives every unit its reset values, and
leaves the refusal mark, the oracles and all else as they were. That it leaves the draw counters, which are the model's own
fields, is the model's choice (assumption 4): R135 says so of the oracles only. -/
def Obligations.ResetCommandRestoresConstruction : Prop :=
  encode .reset = 0x8000#16 ∧
  (∀ (s : State) (d : Delivery) (rest : List Delivery), s.pending = d :: rest → d.word.toNat / 4096 = 8 →
    d.word ≠ 0x8000#16 → ∃ t, step s = .next t ∧ RefusedWith .reservedEncoding d.word (s.take d rest) t) ∧
  ∀ s : State, ∃ t, exec .reset s = .next t ∧ AtResetValues t ∧ SameOutsideUnits s t ∧
    ∀ k : Fin 16, t.bern[k].oracle = s.bern[k].oracle ∧ t.osc[k].draws = s.osc[k].draws ∧
      t.gain[k].draws = s.gain[k].draws

/-- R44, R152: at construction every unit holds its reset values, for any parameters, and the mark is false; `RESET`
gives the same values and leaves the mark; the machine's own reset state is the construction state of the parameters it
carries. -/
def Obligations.ConstructionHoldsResetValues : Prop :=
  (∀ p : Params, AtResetValues (State.construct p) ∧ (State.construct p).params = p ∧
    (State.construct p).refused = false) ∧
  (∀ s : State, ∃ t, exec .reset s = .next t ∧ AtResetValues t ∧ t.params = s.params ∧ t.refused = s.refused) ∧
  State.reset = State.construct State.reset.params

/-! ### Reading the bus -/

/-- R49: how a lane of an input port is read; and which port, which lane and which default each read of a tick takes: lane
`c` of the pitch and the FM port for an oscillator's lane `c` (R89), lane `c` of the signal and the CV port for a gain
stage's (R109, R110), lane 0 for a monophonic unit's port (R114, R116, R123, R126), each with the default 0.0. The drawn
value is free; a monophonic read of a port whose count is in range never depends on it. -/
def Obligations.LaneResolution : Prop :=
  (∀ (p : InPort) (c : Fin 16) (dflt drawn : Number),
    (p.ch = 0 → p.read c dflt drawn = .fin dflt) ∧ (p.ch = 1 → p.read c dflt drawn = p.lanes[0]) ∧
    (1 < p.ch → (c.val : Int) < p.ch → p.read c dflt drawn = p.lanes[c]) ∧
    (1 < p.ch → p.ch ≤ (c.val : Int) → p.read c dflt drawn = .fin drawn)) ∧
  (∀ (s : State) (k c : Fin 16),
    (∃ drawn, s.oscPitch k c = s.bus.osc[k].pitch.read c (.rat 0) drawn) ∧
    (∃ drawn, s.oscFm k c = s.bus.osc[k].fm.read c (.rat 0) drawn) ∧
    (∃ drawn, s.gainIn k c = s.bus.gain[k].input.read c (.rat 0) drawn) ∧
    (∃ drawn, s.gainCv k c = s.bus.gain[k].cv.read c (.rat 0) drawn)) ∧
  ∀ (p : InPort) (drawn : Number), 0 ≤ p.ch → p.readMono = p.read 0 (.rat 0) drawn

/-- R139: a tick that reads a port whose declared channel count is outside 0..16 refuses with `ChannelRange`. -/
def Obligations.ChannelRangeRefuses : Prop :=
  ∀ (s : State) (k : Fin 16),
    (k.val < s.params.nOsc →
      (∃ p ∈ [s.bus.osc[k].pitch, s.bus.osc[k].fm], p.ch < 0 ∨ 16 < p.ch) →
      ∃ t, exec (.tickOsc k.val) s = .next t ∧ RefusedWith .channelRange (encode (.tickOsc k.val)) s t) ∧
    (k.val < s.params.nGain →
      (∃ p ∈ [s.bus.gain[k].input, s.bus.gain[k].cv], p.ch < 0 ∨ 16 < p.ch) →
      ∃ t, exec (.tickGain k.val) s = .next t ∧ RefusedWith .channelRange (encode (.tickGain k.val)) s t) ∧
    (k.val < s.params.nBern →
      (∃ p ∈ [s.bus.bern[k].gate, s.bus.bern[k].prob], p.ch < 0 ∨ 16 < p.ch) →
      ∃ t, exec (.tickBern k.val) s = .next t ∧ RefusedWith .channelRange (encode (.tickBern k.val)) s t) ∧
    (k.val < s.params.nLogic →
      (∃ p ∈ [s.bus.logic[k].a, s.bus.logic[k].b, s.bus.logic[k].x, s.bus.logic[k].y], p.ch < 0 ∨ 16 < p.ch) →
      ∃ t, exec (.tickLogic k.val) s = .next t ∧ RefusedWith .channelRange (encode (.tickLogic k.val)) s t)

/-- R140, and R107 for the gain stage: with the channel counts in range, a tick refuses with `ControlRange` when the
oscillator's sample rate is not positive or its depth lies outside [-1, 1], or when the gain stage's level or curve is
negative; the sample time has no range: an oscillator tick that runs normally does so at any sample time. -/
def Obligations.ControlRangeRefuses : Prop :=
  ∀ (s : State) (k : Fin 16),
    (k.val < s.params.nOsc →
      (∀ p ∈ [s.bus.osc[k].pitch, s.bus.osc[k].fm], 0 ≤ p.ch ∧ p.ch ≤ 16) →
      ((∃ sr, s.bus.sampleRate = .fin sr ∧ sr.toReal ≤ 0) ∨
        ∃ d, s.bus.osc[k].depth = .fin d ∧ (d.toReal < -1 ∨ 1 < d.toReal)) →
      ∃ t, exec (.tickOsc k.val) s = .next t ∧ RefusedWith .controlRange (encode (.tickOsc k.val)) s t) ∧
    (k.val < s.params.nGain →
      (∀ p ∈ [s.bus.gain[k].input, s.bus.gain[k].cv], 0 ≤ p.ch ∧ p.ch ≤ 16) →
      ((∃ l, s.bus.gain[k].level = .fin l ∧ l.toReal < 0) ∨ ∃ e, s.bus.gain[k].curve = .fin e ∧ e.toReal < 0) →
      ∃ t, exec (.tickGain k.val) s = .next t ∧ RefusedWith .controlRange (encode (.tickGain k.val)) s t) ∧
    (k.val < s.params.nOsc → OscReady s k → ∀ dt : Number,
      ∃ t, exec (.tickOsc k.val) { s with bus := { s.bus with sampleTime := .fin dt } } = .next t ∧
        t.refused = s.refused)

/-- R107, R108, R143: a gain tick whose counts and ranges are in order refuses with `ZeroPowZero` when level and curve
are both 0, or when the curve is 0 and the CV factor's base is 0 on a lane it processes. That a level of minus infinity
is no negative level (R107), so that this reason is reported before `NonFinite` or `ControlRange`, is the model's choice
(assumption 9). -/
def Obligations.ZeroPowZeroRefuses : Prop :=
  ∀ (s : State) (k : Fin 16) (e : Number), k.val < s.params.nGain →
    (∀ p ∈ [s.bus.gain[k].input, s.bus.gain[k].cv], 0 ≤ p.ch ∧ p.ch ≤ 16) →
    s.bus.gain[k].curve = .fin e → e.toReal = 0 → (∀ l, s.bus.gain[k].level = .fin l → 0 ≤ l.toReal) →
    ((∃ l, s.bus.gain[k].level = .fin l ∧ l.toReal = 0) ∨
      (1 ≤ s.bus.gain[k].cv.ch ∧ ∃ (c : Fin 16) (v f : Number), (c.val : Int) < s.bus.gain[k].input.ch ∧
        s.gainCv k c = .fin v ∧ s.bus.gain[k].offset = .fin f ∧
        (clamp (s.params.numerics.div (s.params.numerics.add v f) (.rat 10)) (.rat 0) (.rat 1)).toReal = 0)) →
    ∃ t, exec (.tickGain k.val) s = .next t ∧ RefusedWith .zeroPowZero (encode (.tickGain k.val)) s t

/-- R141, R143: an oscillator tick that meets no earlier reason refuses with `NonFinite` when a value it reads (a
control, a global, a parameter, a lane below its lane count) is not finite. That a sample rate or a depth that is no
finite number meets no range check of R94, and so is reported as `NonFinite`, is the model's choice (assumption 9). -/
def Obligations.NonFiniteOscRefuses : Prop :=
  ∀ (s : State) (k : Fin 16), k.val < s.params.nOsc →
    (∀ p ∈ [s.bus.osc[k].pitch, s.bus.osc[k].fm], 0 ≤ p.ch ∧ p.ch ≤ 16) →
    (∀ sr, s.bus.sampleRate = .fin sr → 0 < sr.toReal) →
    (∀ d, s.bus.osc[k].depth = .fin d → -1 ≤ d.toReal ∧ d.toReal ≤ 1) →
    ((∃ v ∈ [s.bus.osc[k].depth, s.bus.osc[k].odd, s.bus.osc[k].even, s.bus.sampleTime, s.bus.sampleRate,
        s.params.baseFreq, s.params.oscOutScale], v.isFinite = false) ∨
      ∃ c : Fin 16, c.val < max 1 s.bus.osc[k].pitch.ch.toNat ∧
        ((s.oscPitch k c).isFinite = false ∨ (s.oscFm k c).isFinite = false)) →
    ∃ t, exec (.tickOsc k.val) s = .next t ∧ RefusedWith .nonFinite (encode (.tickOsc k.val)) s t

/-- R141, R143: a gain tick that meets no earlier reason refuses with `NonFinite` when the level, the curve, the offset,
a signal lane below its lane count, or such a lane of a connected CV is not finite. That a level, a curve or a CV base
that is no finite number meets no check of R112 for a negative or a zero value, and so is reported as `NonFinite`, is the
model's choice (assumption 9). -/
def Obligations.NonFiniteGainRefuses : Prop :=
  ∀ (s : State) (k : Fin 16), k.val < s.params.nGain →
    (∀ p ∈ [s.bus.gain[k].input, s.bus.gain[k].cv], 0 ≤ p.ch ∧ p.ch ≤ 16) →
    (∀ l, s.bus.gain[k].level = .fin l → 0 ≤ l.toReal) → (∀ e, s.bus.gain[k].curve = .fin e → 0 ≤ e.toReal) →
    (∀ e, s.bus.gain[k].curve = .fin e → e.toReal = 0 →
      (∀ l, s.bus.gain[k].level = .fin l → l.toReal ≠ 0) ∧
      (1 ≤ s.bus.gain[k].cv.ch → ∀ (c : Fin 16) (v f : Number), (c.val : Int) < s.bus.gain[k].input.ch →
        s.gainCv k c = .fin v → s.bus.gain[k].offset = .fin f →
        (clamp (s.params.numerics.div (s.params.numerics.add v f) (.rat 10)) (.rat 0) (.rat 1)).toReal ≠ 0)) →
    ((∃ v ∈ [s.bus.gain[k].level, s.bus.gain[k].curve, s.bus.gain[k].offset], v.isFinite = false) ∨
      ∃ c : Fin 16, (c.val : Int) < s.bus.gain[k].input.ch ∧
        ((s.gainIn k c).isFinite = false ∨ (1 ≤ s.bus.gain[k].cv.ch ∧ (s.gainCv k c).isFinite = false))) →
    ∃ t, exec (.tickGain k.val) s = .next t ∧ RefusedWith .nonFinite (encode (.tickGain k.val)) s t

/-- R141: a Bernoulli or logic tick with its channel counts in range refuses with `NonFinite` when lane 0 of an input
it reads is not finite. The Bernoulli unit reads its probability on a firing tick only, and when it is connected. -/
def Obligations.NonFiniteMonoRefuses : Prop :=
  ∀ (s : State) (k : Fin 16),
    (k.val < s.params.nBern →
      (∀ p ∈ [s.bus.bern[k].gate, s.bus.bern[k].prob], 0 ≤ p.ch ∧ p.ch ≤ 16) →
      (s.bus.bern[k].gate.readMono.isFinite = false ∨
        (s.bernFires k = true ∧ 1 ≤ s.bus.bern[k].prob.ch ∧ s.bus.bern[k].prob.readMono.isFinite = false)) →
      ∃ t, exec (.tickBern k.val) s = .next t ∧ RefusedWith .nonFinite (encode (.tickBern k.val)) s t) ∧
    (k.val < s.params.nLogic →
      (∀ p ∈ [s.bus.logic[k].a, s.bus.logic[k].b, s.bus.logic[k].x, s.bus.logic[k].y], 0 ≤ p.ch ∧ p.ch ≤ 16) →
      (∃ p ∈ [s.bus.logic[k].a, s.bus.logic[k].b, s.bus.logic[k].x, s.bus.logic[k].y], p.readMono.isFinite = false) →
      ∃ t, exec (.tickLogic k.val) s = .next t ∧ RefusedWith .nonFinite (encode (.tickLogic k.val)) s t)

/-! ### Oscillator and Frequency Mapper -/

/-- R85, R88, R89, R93, R95, R96: one tick of an oscillator whose inputs are in order. Each active lane's phase advances
by its frequency times the sample time and is wrapped by its floor; its output is computed from the new phase; an inactive
lane gets some phase in [0, 1) and its cell is not written; the mode and every other unit stay. -/
def Obligations.TickOscResult : Prop :=
  ∀ (s : State) (k : Fin 16), k.val < s.params.nOsc → OscReady s k →
    ∃ t, exec (.tickOsc k.val) s = .next t ∧ FrameOsc k s t ∧ t.osc[k].fmMode = s.osc[k].fmMode ∧
      t.osc[k].out.ch = max 1 s.bus.osc[k].pitch.ch.toNat ∧ 1 ≤ t.osc[k].out.ch ∧ t.osc[k].out.ch ≤ 16 ∧
      (∀ c : Fin 16, c.val < max 1 s.bus.osc[k].pitch.ch.toNat →
        let N := s.params.numerics
        let f := freq N s.params.baseFreq.number s.osc[k].fmMode (s.oscPitch k c).number (s.oscFm k c).number
          s.bus.osc[k].depth.number s.bus.sampleRate.number
        let q := N.add s.osc[k].phase[c] (N.mul f s.bus.sampleTime.number)
        t.osc[k].phase[c] = N.sub q (.rat (N.floor q)) ∧
        (s.params.num = .ref → 0 ≤ t.osc[k].phase[c].toReal ∧ t.osc[k].phase[c].toReal < 1) ∧
        t.osc[k].out.cells[c] = .val (clamp (N.mul s.params.oscOutScale.number
          (hsum N t.osc[k].phase[c] (clamp s.bus.osc[k].odd.number (.rat 0) (.rat 1))
            (clamp s.bus.osc[k].even.number (.rat 0) (.rat 1)))) (.rat (-10)) (.rat 10))) ∧
      (∀ c : Fin 16, max 1 s.bus.osc[k].pitch.ch.toNat ≤ c.val →
        0 ≤ t.osc[k].phase[c].toReal ∧ t.osc[k].phase[c].toReal < 1 ∧
        t.osc[k].out.cells[c] = s.osc[k].out.cells[c])

/-- R98, R100 to R102: the frequency in each mode, for either numerics record. Under a rounding arithmetic the grouping of
`BASE_FREQ * d * fm` from the left is the model's choice, and so is that the lower bound `-B` is the exact negation of `B`
(assumption 27). Where `B` is negative, the clamp is R11's formula as written, which is the model's reading (assumption 25). -/
def Obligations.FrequencyMapperRule : Prop :=
  ∀ (n : NumChoice) (base pitch fm d sr : Number),
    let N := numOf n
    let B := (N.div sr (.rat 16)).toReal
    (freq N base .exponential pitch fm d sr).toReal =
      min (max (N.mul base (N.exp2 (N.add pitch (N.mul fm d)))).toReal 0) B ∧
    (freq N base .linear pitch fm d sr).toReal =
      min (max (N.add (N.mul base (N.exp2 pitch)) (N.mul (N.mul base d) fm)).toReal (-B)) B

/-- R10: both numerics records have the named properties `EXP2_ZERO` and `EXP2_MONO`. -/
def Obligations.Exp2NamedProperties : Prop :=
  ∀ n : NumChoice,
    (∀ x : Number, x.toReal = 0 → ((numOf n).exp2 x).toReal = 1) ∧
    ∀ x y : Number, x.toReal ≤ y.toReal → ((numOf n).exp2 x).toReal ≤ ((numOf n).exp2 y).toReal

/-- R104: the properties of `FREQ`, row by row, and the worked example below them. -/
def Obligations.FrequencyMapperProperties : Prop :=
  (∀ base zero fm d sr : Number, zero.toReal = 0 → 0 < base.toReal → base.toReal ≤ sr.toReal / 16 →
    fm.toReal * d.toReal = 0 →
    (freq numRef base .exponential zero fm d sr).toReal = base.toReal ∧
    (freq numRef base .linear zero fm d sr).toReal = base.toReal) ∧
  (∀ base fm d sr x y : Number, d.toReal = 0 → 0 < base.toReal → x.toReal ≤ y.toReal →
    (freq numRef base .linear x fm d sr).toReal ≤ (freq numRef base .linear y fm d sr).toReal) ∧
  (∀ (n : NumChoice) (base pitch fm d sr : Number), 0 ≤ ((numOf n).div sr (.rat 16)).toReal →
    (0 ≤ (freq (numOf n) base .exponential pitch fm d sr).toReal ∧
      (freq (numOf n) base .exponential pitch fm d sr).toReal ≤ ((numOf n).div sr (.rat 16)).toReal) ∧
    (-((numOf n).div sr (.rat 16)).toReal ≤ (freq (numOf n) base .linear pitch fm d sr).toReal ∧
      (freq (numOf n) base .linear pitch fm d sr).toReal ≤ ((numOf n).div sr (.rat 16)).toReal)) ∧
  (∀ base pitch up fm d sr : Number, up.toReal = pitch.toReal + 1 → 0 < base.toReal →
    base.toReal * (2 : ℝ) ^ (up.toReal + fm.toReal * d.toReal) ≤ sr.toReal / 16 →
    (freq numRef base .exponential up fm d sr).toReal = 2 * (freq numRef base .exponential pitch fm d sr).toReal) ∧
  (∀ base pitch fm d sr : Number, d.toReal = 0 → 0 < base.toReal →
    base.toReal * (2 : ℝ) ^ pitch.toReal ≤ sr.toReal / 16 →
    (freq numRef base .exponential pitch fm d sr).toReal = base.toReal * (2 : ℝ) ^ pitch.toReal ∧
    (freq numRef base .linear pitch fm d sr).toReal = base.toReal * (2 : ℝ) ^ pitch.toReal) ∧
  freq numRef (.rat 200) .exponential (.rat 1) (.rat (-3)) (.rat 1) (.rat 48000) = .rat 50 ∧
  freq numRef (.rat 200) .linear (.rat 1) (.rat (-3)) (.rat 1) (.rat 48000) = .rat (-200)

/-- R91: the harmonic sum under the reference arithmetic, its eight terms written out. -/
def Obligations.HarmonicSumTerms : Prop :=
  ∀ phase odd even : Number,
    let p := phase.toReal
    let o := odd.toReal
    let e := even.toReal
    (hsum numRef phase odd even).toReal =
      Real.sin (2 * Real.pi * p) + e * Real.sin (4 * Real.pi * p) / 2 + o * Real.sin (6 * Real.pi * p) / 3 +
        e * Real.sin (8 * Real.pi * p) / 4 + o * Real.sin (10 * Real.pi * p) / 5 +
        e * Real.sin (12 * Real.pi * p) / 6 + o * Real.sin (14 * Real.pi * p) / 7 + e * Real.sin (16 * Real.pi * p) / 8

/-- R93: under the reference arithmetic the sum is at most 761/280 in magnitude for weights in [0, 1], so the output
clamp never acts when the scale is at most 10 * 280/761 in magnitude. -/
def Obligations.HarmonicSumBound : Prop :=
  ∀ p o e : Number, 0 ≤ o.toReal → o.toReal ≤ 1 → 0 ≤ e.toReal → e.toReal ≤ 1 →
    |(hsum numRef p o e).toReal| ≤ 761 / 280 ∧
    ∀ scale : Number, |scale.toReal| ≤ 10 * 280 / 761 →
      (oscOutput numRef scale p o e).toReal = scale.toReal * (hsum numRef p o e).toReal

/-- R92, 93 I1: with both weights 0 the sum is the fundamental under the reference arithmetic; an implementation takes
the short path or the long one. -/
def Obligations.ShortCircuitOfZeroWeights : Prop :=
  ∀ p o e : Number, o.toReal = 0 → e.toReal = 0 →
    (hsum numRef p o e).toReal = Real.sin (2 * Real.pi * p.toReal) ∧
    (hsum numImpl p o e = sinTurn numImpl p 1 ∨ hsum numImpl p o e = harmonicSum numImpl p o e)

/-- V31: under the reference arithmetic the sum is odd about half a turn. -/
def Obligations.HarmonicSumOdd : Prop :=
  ∀ p p' o e : Number, p'.toReal = 1 - p.toReal → (hsum numRef p' o e).toReal = -(hsum numRef p o e).toReal

/-- R88, R97: under the reference arithmetic the wrapped phase is the fraction of the phase plus frequency times sample
time; a lane stands still when its frequency or the sample time is 0, a lane that lands on a whole number of cycles wraps
to 0, and whole cycles make no difference. -/
def Obligations.StaticPhase : Prop :=
  (∀ ph f dt : Number, (wrapPhase numRef ph f dt).toReal = Int.fract (ph.toReal + f.toReal * dt.toReal)) ∧
  (∀ ph f dt : Number, 0 ≤ ph.toReal → ph.toReal < 1 → f.toReal = 0 ∨ dt.toReal = 0 →
    (wrapPhase numRef ph f dt).toReal = ph.toReal) ∧
  (∀ (ph f dt : Number) (n : Int), ph.toReal + f.toReal * dt.toReal = n → (wrapPhase numRef ph f dt).toReal = 0) ∧
  (∀ (ph ph' f dt : Number) (n : Int), ph'.toReal = ph.toReal + n →
    (wrapPhase numRef ph' f dt).toReal = (wrapPhase numRef ph f dt).toReal)

/-- R87: the result of a tick for a lane depends only on that lane's phase and inputs and on the instance's shared
controls and mode, not on which lane it is: where lane `c` of one tick and lane `c'` of another agree on these, they get
the same phase and the same output. -/
def Obligations.LanesAreIndependent : Prop :=
  ∀ (s s' : State) (k c c' : Fin 16), k.val < s.params.nOsc → OscReady s k → OscReady s' k → s'.params = s.params →
    s'.bus.sampleTime = s.bus.sampleTime → s'.bus.sampleRate = s.bus.sampleRate →
    s'.bus.osc[k].depth = s.bus.osc[k].depth → s'.bus.osc[k].odd = s.bus.osc[k].odd →
    s'.bus.osc[k].even = s.bus.osc[k].even → s'.osc[k].fmMode = s.osc[k].fmMode →
    s'.osc[k].phase[c'] = s.osc[k].phase[c] → s'.oscPitch k c' = s.oscPitch k c → s'.oscFm k c' = s.oscFm k c →
    c.val < s.bus.osc[k].lanes → c'.val < s'.bus.osc[k].lanes →
    ∃ t t', exec (.tickOsc k.val) s = .next t ∧ exec (.tickOsc k.val) s' = .next t' ∧
      t'.osc[k].phase[c'] = t.osc[k].phase[c] ∧ t'.osc[k].out.cells[c'] = t.osc[k].out.cells[c]

/-- R86: grouped four by four, the lanes processed are the active lanes; a processed group has 1 to 4 active lanes, any
other group none. -/
def Obligations.GroupsCoverActiveLanes : Prop :=
  ∀ n : Nat, n ≤ 16 →
    (∀ c : Fin 16, laneInGroups n c = decide (c.val < n)) ∧
    (∀ g : Nat, g < groupsProcessed n → 1 ≤ groupActive n g ∧ groupActive n g ≤ 4) ∧
    (∀ g : Nat, groupsProcessed n ≤ g → groupActive n g = 0) ∧
    groupActive n 0 + groupActive n 1 + groupActive n 2 + groupActive n 3 = n

/-! ### Gain stage -/

/-- R105, R106, R108, R109, R111: one tick of a gain stage whose inputs are in order. Its channel count is the signal's;
each lane below it publishes the clamped product, or no value when the output is not connected; the cells beyond and every
other unit stay. Under the reference arithmetic the product is the real one. Under a rounding arithmetic its grouping,
`(in * g0) * k`, is the model's choice (assumption 27). -/
def Obligations.TickGainResult : Prop :=
  ∀ (s : State) (k : Fin 16), k.val < s.params.nGain → GainReady s k →
    ∃ t, exec (.tickGain k.val) s = .next t ∧ FrameGain k s t ∧
      t.gain[k].out.ch = s.bus.gain[k].input.ch.toNat ∧
      (∀ c : Fin 16, (c.val : Int) < s.bus.gain[k].input.ch →
        let N := s.params.numerics
        let level := s.bus.gain[k].level.number
        let curve := s.bus.gain[k].curve.number
        let x := clamp (N.div (N.add (s.gainCv k c).number s.bus.gain[k].offset.number) (.rat 10)) (.rat 0) (.rat 1)
        let kc := if 1 ≤ s.bus.gain[k].cv.ch then N.pow x curve else .rat 1
        let out := clamp (N.mul (N.mul (s.gainIn k c).number (N.pow level curve)) kc) (.rat (-10)) (.rat 10)
        t.gain[k].out.cells[c] = (if s.bus.gain[k].outConn = true then .val out else .unspec) ∧
        (s.params.num = .ref → out.toReal = min (max ((s.gainIn k c).number.toReal * level.toReal ^ curve.toReal *
          if 1 ≤ s.bus.gain[k].cv.ch then
            min (max (((s.gainCv k c).number.toReal + s.bus.gain[k].offset.number.toReal) / 10) 0) 1 ^ curve.toReal
          else 1) (-10)) 10)) ∧
      (∀ c : Fin 16, s.bus.gain[k].input.ch ≤ (c.val : Int) → t.gain[k].out.cells[c] = s.gain[k].out.cells[c])

/-- R111, R54: after a gain tick with the output not connected, the host's read of any lane below the channel count is
a fault of the observation. -/
def Obligations.UnconnectedGainOutputUnreadable : Prop :=
  ∀ (s : State) (k c : Fin 16), k.val < s.params.nGain → GainReady s k → s.bus.gain[k].outConn = false →
    (c.val : Int) < s.bus.gain[k].input.ch →
    ∃ t, exec (.tickGain k.val) s = .next t ∧ hostRead t 1 k.val 0 c = .error .unspecRead

/-- R113: corner cases of the gain stage under the reference arithmetic. The row `L > 1` is stated for `K > 0`: at `K = 0`
the row above it gives `g0 = 1`. -/
def Obligations.GainCornerCases : Prop :=
  ∀ x l e cv off kc : Number, 0 ≤ l.toReal → 0 ≤ e.toReal →
    let g0 := numRef.pow l e
    let base := cvBase numRef cv off
    let factor := numRef.pow base e
    (l.toReal = 0 → 0 < e.toReal → g0.toReal = 0 ∧ (gainOutput numRef x g0 kc).toReal = 0) ∧
    (l.toReal = 1 → e.toReal = 1 → (gainOutput numRef x g0 (.rat 1)).toReal = min (max x.toReal (-10)) 10) ∧
    (0 < l.toReal → e.toReal = 0 → g0.toReal = 1) ∧
    (e.toReal = 0 → 0 < base.toReal → factor.toReal = 1) ∧
    (cv.toReal + off.toReal ≤ 0 → base.toReal = 0 ∧
      (0 < e.toReal → factor.toReal = 0 ∧ (gainOutput numRef x g0 factor).toReal = 0)) ∧
    (10 ≤ cv.toReal + off.toReal → base.toReal = 1 ∧ factor.toReal = 1) ∧
    (10 < x.toReal * g0.toReal * kc.toReal → (gainOutput numRef x g0 kc).toReal = 10) ∧
    (x.toReal * g0.toReal * kc.toReal < -10 → (gainOutput numRef x g0 kc).toReal = -10) ∧
    (1 < l.toReal → 0 < e.toReal → 1 < g0.toReal)

/-! ### Bernoulli unit -/

/-- R114, R115, R116, R118, R119: one tick of a Bernoulli unit whose inputs are in order, with gate voltage `v`. The
flag takes the gate level; on a rising edge the latch takes B when the draw is below the probability and A otherwise,
else it keeps; both outputs show the latch on one channel; every other unit stays. -/
def Obligations.TickBernResult : Prop :=
  ∀ (s : State) (k : Fin 16) (v : Number), k.val < s.params.nBern → BernReady s k →
    s.bus.bern[k].gate.readMono = .fin v →
    ∃ t, exec (.tickBern k.val) s = .next t ∧ FrameBern k s t ∧
      (t.bern[k].lastHigh = true ↔ 2 ≤ v.toReal) ∧
      (2 ≤ v.toReal ∧ s.bern[k].lastHigh = false →
        let p := if 1 ≤ s.bus.bern[k].prob.ch then
            clamp (s.params.numerics.div s.bus.bern[k].prob.readMono.number (.rat 10)) (.rat 0) (.rat 1) else .rat (1 / 2)
        t.bern[k].latch = (if (s.bern[k].oracle.draw k).1.toReal < p.toReal then .b else .a) ∧
        t.bern[k].oracle = (s.bern[k].oracle.draw k).2) ∧
      (v.toReal < 2 ∨ s.bern[k].lastHigh = true →
        t.bern[k].latch = s.bern[k].latch ∧ t.bern[k].oracle = s.bern[k].oracle) ∧
      t.bern[k].outA.ch = 1 ∧ t.bern[k].outB.ch = 1 ∧
      t.bern[k].outA.cells[0] = .val (.rat (if t.bern[k].latch = .a then 10 else 0)) ∧
      t.bern[k].outB.cells[0] = .val (.rat (if t.bern[k].latch = .b then 10 else 0)) ∧
      ∀ c : Fin 16, c ≠ 0 → t.bern[k].outA.cells[c] = s.bern[k].outA.cells[c] ∧
        t.bern[k].outB.cells[c] = s.bern[k].outB.cells[c]

/-- R117: a draw takes exactly the next element of the unit's sequence: the next named one, and where none is named the
free value at the unit's position, after which none is named either; it lies in [0, 1) when the named ones do. -/
def Obligations.DrawTakesNextElement : Prop :=
  ∀ (k : Fin 16) (o : Oracle),
    (o.draw k).2.taken = o.taken + 1 ∧
    (∀ r rest, o.named = r :: rest → (o.draw k).1 = r ∧ (o.draw k).2.named = rest) ∧
    (o.named = [] → (o.draw k).1 = unitOf (Config.randTail k.val o.taken) ∧ (o.draw k).2.named = []) ∧
    ((∀ r ∈ o.named, 0 ≤ r.toReal ∧ r.toReal < 1) → 0 ≤ (o.draw k).1.toReal ∧ (o.draw k).1.toReal < 1)

/-- R118, §8: with draws in [0, 1), probability 0 V always selects A, 10 V or more always B, and a disconnected input
selects B exactly when the draw is below a half. Reference arithmetic. -/
def Obligations.ProbabilityExtremes : Prop :=
  ∀ r v : Number, 0 ≤ r.toReal → r.toReal < 1 →
    (v.toReal ≤ 0 → select r (probability numRef true v) = .a) ∧
    (10 ≤ v.toReal → select r (probability numRef true v) = .b) ∧
    (select r (probability numRef false v) = .b ↔ r.toReal < 1 / 2)

/-- R122: clamping the probability is unobservable, for either numerics record: a draw in [0, 1) is below the quotient
exactly when it is below the clamped quotient, so it selects the same output. -/
def Obligations.ProbabilityClampUnobservable : Prop :=
  ∀ (n : NumChoice) (r v : Number), 0 ≤ r.toReal → r.toReal < 1 →
    let pRaw := (numOf n).div v (.rat 10)
    (r.toReal < pRaw.toReal ↔ r.toReal < (clamp pRaw (.rat 0) (.rat 1)).toReal) ∧
    select r (probability (numOf n) true v) = select r pRaw

/-- R155: a second tick of a Bernoulli unit on the same bus does not fire and changes nothing. -/
def Obligations.SecondBernTickHolds : Prop :=
  ∀ (s t : State) (u : Nat), exec (.tickBern u) s = .next t → exec (.tickBern u) t = .next t

/-! ### Logic unit -/

/-- R123 to R127: one tick of a logic unit whose inputs are in order: the four rows of the truth table at 10 V and 0 V,
the greater and the lesser of the analog inputs unchanged, one channel each; every other unit stays. -/
def Obligations.TickLogicResult : Prop :=
  ∀ (s : State) (k : Fin 16) (a b x y : Number), k.val < s.params.nLogic → LogicReady s k →
    s.bus.logic[k].a.readMono = .fin a → s.bus.logic[k].b.readMono = .fin b →
    s.bus.logic[k].x.readMono = .fin x → s.bus.logic[k].y.readMono = .fin y →
    ∃ t, exec (.tickLogic k.val) s = .next t ∧ FrameLogic k s t ∧
      (a.toReal < 2 → b.toReal < 2 →
        t.logic[k].outA.cells[0] = .val (.rat 0) ∧ t.logic[k].outB.cells[0] = .val (.rat 0)) ∧
      (a.toReal < 2 → 2 ≤ b.toReal →
        t.logic[k].outA.cells[0] = .val (.rat 0) ∧ t.logic[k].outB.cells[0] = .val (.rat 10)) ∧
      (2 ≤ a.toReal → b.toReal < 2 →
        t.logic[k].outA.cells[0] = .val (.rat 10) ∧ t.logic[k].outB.cells[0] = .val (.rat 10)) ∧
      (2 ≤ a.toReal → 2 ≤ b.toReal →
        t.logic[k].outA.cells[0] = .val (.rat 10) ∧ t.logic[k].outB.cells[0] = .val (.rat 0)) ∧
      t.logic[k].max.cells[0] = .val (if x.toReal ≤ y.toReal then y else x) ∧
      t.logic[k].min.cells[0] = .val (if x.toReal ≤ y.toReal then x else y) ∧
      t.logic[k].outA.ch = 1 ∧ t.logic[k].outB.ch = 1 ∧ t.logic[k].max.ch = 1 ∧ t.logic[k].min.ch = 1 ∧
      ∀ c : Fin 16, c ≠ 0 → t.logic[k].outA.cells[c] = s.logic[k].outA.cells[c] ∧
        t.logic[k].outB.cells[c] = s.logic[k].outB.cells[c] ∧ t.logic[k].max.cells[c] = s.logic[k].max.cells[c] ∧
        t.logic[k].min.cells[c] = s.logic[k].min.cells[c]

/-- R127, R40: a logic unit keeps no state: ticking it twice on the same bus gives what one tick gives. -/
def Obligations.LogicTickIsIdempotent : Prop :=
  ∀ (s t : State) (u : Nat), exec (.tickLogic u) s = .next t → exec (.tickLogic u) t = .next t

/-! ### Whole-machine rules and invariants -/

/-- R35: the mode register of an oscillator is written only by `SETMODE`, `LOADCFG` and `RESET`. -/
def Obligations.OnlyModeCommandsWriteMode : Prop :=
  ∀ (i : Instr) (s t : State) (k : Fin 16), exec i s = .next t → t.osc[k].fmMode ≠ s.osc[k].fmMode →
    (∃ m, i = .setMode k.val m) ∨ i = .loadCfg k.val ∨ i = .reset

/-- R32, R37, R38, R41, R117: a phase file, a trigger flag, a latch, an output register and an oracle are written only by
the owning unit's tick and, the oracle apart, by `RESET`; the latch and the oracle only on a firing. The mode register is
`OnlyModeCommandsWriteMode`. -/
def Obligations.OnlyOwningTickWrites : Prop :=
  ∀ (i : Instr) (s t : State) (k : Fin 16), exec i s = .next t →
    (t.osc[k].phase ≠ s.osc[k].phase ∨ t.osc[k].out ≠ s.osc[k].out → i = .tickOsc k.val ∨ i = .reset) ∧
    (t.gain[k].out ≠ s.gain[k].out → i = .tickGain k.val ∨ i = .reset) ∧
    (t.bern[k].lastHigh ≠ s.bern[k].lastHigh ∨ t.bern[k].outA ≠ s.bern[k].outA ∨ t.bern[k].outB ≠ s.bern[k].outB →
      i = .tickBern k.val ∨ i = .reset) ∧
    (t.bern[k].latch ≠ s.bern[k].latch → (i = .tickBern k.val ∧ s.bernFires k = true) ∨ i = .reset) ∧
    (t.bern[k].oracle ≠ s.bern[k].oracle → i = .tickBern k.val ∧ s.bernFires k = true) ∧
    (t.logic[k] ≠ s.logic[k] → i = .tickLogic k.val ∨ i = .reset)

/-- R43: no step changes a parameter. -/
def Obligations.ParametersNeverChange : Prop :=
  ∀ s t : State, step s = .next t → t.params = s.params

/-- R61: the order in which the host ticks two different units does not matter: where both run normally in one order,
they run in the other and end in the same state. -/
def Obligations.TicksOfDifferentUnitsCommute : Prop :=
  ∀ (i j : Instr) (x y : Nat × Nat) (s a b : State), tickAddress i = some x → tickAddress j = some y → x ≠ y →
    exec i s = .next a → exec j a = .next b → b.refused = false →
    ∃ a', exec j s = .next a' ∧ exec i a' = .next b

/-- R33, R41, R50, R93, R109, R117, R119, R125: the invariant of the block holds at construction for parameters in
their ranges, and in the machine's reset state. -/
def Obligations.InvariantHoldsAtReset : Prop :=
  (∀ p : Params, p.wf → Inv (State.construct p)) ∧ Inv State.reset

/-- The same invariant is kept by every step, from every state that meets it. -/
def Obligations.InvariantKeptByEveryStep : Prop :=
  ∀ s t : State, Inv s → step s = .next t → Inv t

/-- R119, R154: at construction the outputs of every Bernoulli unit hold nothing; that they hold nothing yet or show the
unit's latch is kept by every step. -/
def Obligations.BernOutputsFollowLatch : Prop :=
  (∀ (p : Params) (k : Fin 16), (State.construct p).bern[k].outA.ch = 0 ∧ (State.construct p).bern[k].outB.ch = 0 ∧
    OutputsFollowLatch (State.construct p).bern[k]) ∧
  ∀ s t : State, (∀ k : Fin 16, OutputsFollowLatch s.bern[k]) → step s = .next t →
    ∀ k : Fin 16, OutputsFollowLatch t.bern[k]

/-! ### The host's side -/

/-- R51, R52, R54, R154: what the host reads of an output port register: a number below the channel count, nothing at or
beyond it, a fault of the observation at an empty cell; which register stands at each address of R51; nothing at all at
any other address, which is the model's choice (assumption 30), or from a block just constructed. -/
def Obligations.HostReadsPublishedLanesOnly : Prop :=
  (∀ (o : OutPort) (c : Fin 16),
    (o.ch ≤ c.val → o.readLane c = .ok none) ∧
    (c.val < o.ch → ∀ q, o.cells[c] = .val q → o.readLane c = .ok (some q)) ∧
    (c.val < o.ch → o.cells[c] = .unspec → o.readLane c = .error .unspecRead)) ∧
  (∀ (s : State) (k c : Fin 16),
    (k.val < s.params.nOsc → hostRead s 0 k.val 0 c = s.osc[k].out.readLane c) ∧
    (k.val < s.params.nGain → hostRead s 1 k.val 0 c = s.gain[k].out.readLane c) ∧
    (k.val < s.params.nBern → hostRead s 2 k.val 0 c = s.bern[k].outA.readLane c ∧
      hostRead s 2 k.val 1 c = s.bern[k].outB.readLane c) ∧
    (k.val < s.params.nLogic → hostRead s 3 k.val 0 c = s.logic[k].outA.readLane c ∧
      hostRead s 3 k.val 1 c = s.logic[k].outB.readLane c ∧ hostRead s 3 k.val 2 c = s.logic[k].max.readLane c ∧
      hostRead s 3 k.val 3 c = s.logic[k].min.readLane c)) ∧
  (∀ (s : State) (kind u port : Nat) (c : Fin 16),
    ¬(kind = 0 ∧ port = 0 ∧ u < s.params.nOsc) → ¬(kind = 1 ∧ port = 0 ∧ u < s.params.nGain) →
    ¬(kind = 2 ∧ port ≤ 1 ∧ u < s.params.nBern) → ¬(kind = 3 ∧ port ≤ 3 ∧ u < s.params.nLogic) →
    hostRead s kind u port c = .ok none) ∧
  ∀ (p : Params) (kind u port : Nat) (c : Fin 16), hostRead (State.construct p) kind u port c = .ok none

/-- R51: which input port and which control stands at each address; input ports and controls share one number space, and
driving an input port or a control at one address changes what is read there, and no other input port or control. That the
globals stand at unit number 0 is the model's choice (assumption 29), and so is that driving an address off the port map
changes nothing, which the clauses on the other addresses also say (assumption 18). -/
def Obligations.BusAddressesAreDistinct : Prop :=
  (∀ (b : Bus) (p : Params) (k : Fin 16),
    (k.val < p.nOsc → b.inPort p 0 k.val 0 = some b.osc[k].pitch ∧ b.inPort p 0 k.val 1 = some b.osc[k].fm ∧
      b.control p 0 k.val 2 = some b.osc[k].depth ∧ b.control p 0 k.val 3 = some b.osc[k].odd ∧
      b.control p 0 k.val 4 = some b.osc[k].even) ∧
    (k.val < p.nGain → b.inPort p 1 k.val 0 = some b.gain[k].input ∧ b.inPort p 1 k.val 1 = some b.gain[k].cv ∧
      b.control p 1 k.val 2 = some b.gain[k].level ∧ b.control p 1 k.val 3 = some b.gain[k].curve ∧
      b.control p 1 k.val 4 = some b.gain[k].offset) ∧
    (k.val < p.nBern → b.inPort p 2 k.val 0 = some b.bern[k].gate ∧ b.inPort p 2 k.val 1 = some b.bern[k].prob) ∧
    (k.val < p.nLogic → b.inPort p 3 k.val 0 = some b.logic[k].a ∧ b.inPort p 3 k.val 1 = some b.logic[k].b ∧
      b.inPort p 3 k.val 2 = some b.logic[k].x ∧ b.inPort p 3 k.val 3 = some b.logic[k].y) ∧
    b.control p 15 0 0 = some b.sampleTime ∧ b.control p 15 0 1 = some b.sampleRate) ∧
  ∀ (b : Bus) (p : Params) (kind u port kind' u' port' : Nat) (v : InPort) (x : Value),
    (b.inPort p kind u port = none ∨ b.control p kind u port = none) ∧
    (b.inPort p kind u port ≠ none → (b.setInPort p kind u port v).inPort p kind u port = some v) ∧
    ((kind, u, port) ≠ (kind', u', port') →
      (b.setInPort p kind u port v).inPort p kind' u' port' = b.inPort p kind' u' port') ∧
    (b.setInPort p kind u port v).control p kind' u' port' = b.control p kind' u' port' ∧
    (b.control p kind u port ≠ none → (b.setControl p kind u port x).control p kind u port = some x) ∧
    ((kind, u, port) ≠ (kind', u', port') →
      (b.setControl p kind u port x).control p kind' u' port' = b.control p kind' u' port') ∧
    (b.setControl p kind u port x).inPort p kind' u' port' = b.inPort p kind' u' port'

/-- R78, R79: the assembler reads back the line of every well-formed command, and no line makes it give an ill-formed
one. -/
def Obligations.AssemblerReadsBackText : Prop :=
  (∀ (p : Params) (i : Instr), i.wellFormed = true → assembleLine p (asmText i) = .ok [i]) ∧
  (∀ (p : Params) (line : List Char) (is : List Instr), p.wf → assembleLine p line = .ok is →
    ∀ i ∈ is, i.wellFormed = true)

/-- R79: `TICK_ALL` is one tick of each unit that exists, and of no other. -/
def Obligations.TickAllTicksEveryUnit : Prop :=
  ∀ (p : Params) (u : Nat),
    (Instr.tickOsc u ∈ tickAll p ↔ u < p.nOsc) ∧ (Instr.tickGain u ∈ tickAll p ↔ u < p.nGain) ∧
    (Instr.tickBern u ∈ tickAll p ↔ u < p.nBern) ∧ (Instr.tickLogic u ∈ tickAll p ↔ u < p.nLogic) ∧
    (tickAll p).length = p.nOsc + p.nGain + p.nBern + p.nLogic ∧ (tickAll p).Nodup

/-! ### The arithmetic -/

/-- R8, R10: the reference arithmetic is the exact arithmetic of the reals. `POW` is asked for where R107 and R108 admit
it. -/
def Obligations.ReferenceArithmeticIsExact : Prop :=
  numRef.pi.toReal = Real.pi ∧
  ∀ x y : Number,
    (numRef.add x y).toReal = x.toReal + y.toReal ∧ (numRef.sub x y).toReal = x.toReal - y.toReal ∧
    (numRef.mul x y).toReal = x.toReal * y.toReal ∧
    (y.toReal ≠ 0 → (numRef.div x y).toReal = x.toReal / y.toReal) ∧
    ((numRef.floor x : ℝ) ≤ x.toReal ∧ x.toReal < numRef.floor x + 1) ∧
    (numRef.sin x).toReal = Real.sin x.toReal ∧ (numRef.exp2 x).toReal = (2 : ℝ) ^ x.toReal ∧
    (0 ≤ x.toReal → 0 ≤ y.toReal → ¬(x.toReal = 0 ∧ y.toReal = 0) → (numRef.pow x y).toReal = x.toReal ^ y.toReal)

/-- R10: in either numerics record the operations are functions of their operands: what reals they are decides the result,
not how they are written. -/
def Obligations.OperationsAreFunctionsOfReals : Prop :=
  ∀ (n : NumChoice) (x x' y y' : Number), x.toReal = x'.toReal → y.toReal = y'.toReal →
    let N := numOf n
    (N.add x y).toReal = (N.add x' y').toReal ∧ (N.sub x y).toReal = (N.sub x' y').toReal ∧
    (N.mul x y).toReal = (N.mul x' y').toReal ∧ (N.div x y).toReal = (N.div x' y').toReal ∧
    N.floor x = N.floor x' ∧ (N.sin x).toReal = (N.sin x').toReal ∧ (N.exp2 x).toReal = (N.exp2 x').toReal ∧
    (N.pow x y).toReal = (N.pow x' y').toReal
end

