-- ==== Sys2Proof/Laws/Numerics.lean ====
section
/-! SUPPORT. Which real each operation on numbers gives: the order of R11, the reference arithmetic of R10, the named
properties of an implementation's `EXP2`. -/

namespace Sys2Proof.Machine

/-! ### The reals behind the constructors -/

@[simp] theorem toReal_rat (q : Rat) : (Number.rat q).toReal = q := rfl
@[simp] theorem toReal_named (n : Nat) : (Number.named n).toReal = Config.namedReal n := rfl
@[simp] theorem toReal_pi : Number.pi.toReal = Real.pi := rfl
@[simp] theorem toReal_add (x y : Number) : (Number.add x y).toReal = x.toReal + y.toReal := rfl
@[simp] theorem toReal_sub (x y : Number) : (Number.sub x y).toReal = x.toReal - y.toReal := rfl
@[simp] theorem toReal_mul (x y : Number) : (Number.mul x y).toReal = x.toReal * y.toReal := rfl
@[simp] theorem toReal_div (x y : Number) : (Number.div x y).toReal = x.toReal / y.toReal := rfl
@[simp] theorem toReal_sin (x : Number) : (Number.sin x).toReal = Real.sin x.toReal := rfl
@[simp] theorem toReal_exp2 (x : Number) : (Number.exp2 x).toReal = (2 : ℝ) ^ x.toReal := rfl
@[simp] theorem toReal_pow (b e : Number) : (Number.pow b e).toReal = b.toReal ^ e.toReal := rfl

/-! ### The order (R11) -/

theorem decideReal_iff (p : Prop) : (decideReal p).val = true ↔ p := by
  classical
  rw [(decideReal p).property]; exact decide_eq_true_iff

theorem floorReal_eq (x : Number) : (floorReal x).val = ⌊x.toReal⌋ := (floorReal x).property

theorem le_iff {x y : Number} : Number.le x y = true ↔ x.toReal ≤ y.toReal := by
  unfold Number.le
  split
  · simp
  · exact decideReal_iff _

theorem lt_iff {x y : Number} : Number.lt x y = true ↔ x.toReal < y.toReal := by
  rw [Number.lt, Bool.not_eq_true', ← Bool.not_eq_true, le_iff, not_le]

theorem eq_iff {x y : Number} : Number.eq x y = true ↔ x.toReal = y.toReal := by
  rw [Number.eq, Bool.and_eq_true, le_iff, le_iff, le_antisymm_iff]

theorem le_eq_false_iff {x y : Number} : Number.le x y = false ↔ y.toReal < x.toReal := by
  rw [← Bool.not_eq_true, le_iff, not_le]

theorem lt_eq_false_iff {x y : Number} : Number.lt x y = false ↔ y.toReal ≤ x.toReal := by
  rw [← Bool.not_eq_true, lt_iff, not_lt]

theorem eq_eq_false_iff {x y : Number} : Number.eq x y = false ↔ x.toReal ≠ y.toReal := by
  rw [← Bool.not_eq_true, eq_iff]

theorem floor_eq (x : Number) : Number.floor x = ⌊x.toReal⌋ := by
  unfold Number.floor
  split
  · simp
  · exact floorReal_eq _

theorem toReal_max (x y : Number) : (Number.max x y).toReal = max x.toReal y.toReal := by
  unfold Number.max
  split
  · next h => exact (max_eq_right (le_iff.mp h)).symm
  · next h => exact (max_eq_left (le_of_lt (not_le.mp (mt le_iff.mpr h)))).symm

theorem toReal_min (x y : Number) : (Number.min x y).toReal = min x.toReal y.toReal := by
  unfold Number.min
  split
  · next h => exact (min_eq_left (le_iff.mp h)).symm
  · next h => exact (min_eq_right (le_of_lt (not_le.mp (mt le_iff.mpr h)))).symm

/-- R11. -/
theorem toReal_clamp (x lo hi : Number) :
    (clamp x lo hi).toReal = min (max x.toReal lo.toReal) hi.toReal := by
  rw [clamp, toReal_min, toReal_max]

theorem clamp_bounds {x lo hi : Number} (h : lo.toReal ≤ hi.toReal) :
    lo.toReal ≤ (clamp x lo hi).toReal ∧ (clamp x lo hi).toReal ≤ hi.toReal := by
  rw [toReal_clamp]
  exact ⟨le_min (le_max_right _ _) h, min_le_right _ _⟩

theorem toReal_clamp_of_mem {x lo hi : Number} (h₁ : lo.toReal ≤ x.toReal) (h₂ : x.toReal ≤ hi.toReal) :
    (clamp x lo hi).toReal = x.toReal := by
  rw [toReal_clamp, max_eq_left h₁, min_eq_left h₂]

/-! ### The reference arithmetic (R10) -/

theorem toReal_refAdd (x y : Number) : (refAdd x y).toReal = x.toReal + y.toReal := by
  unfold refAdd
  split
  · simp
  · split
    · next h => simp [h]
    · split
      · next h => simp [h]
      · rfl

theorem toReal_refSub (x y : Number) : (refSub x y).toReal = x.toReal - y.toReal := by
  unfold refSub
  split
  · simp
  · split
    · next h => simp [h]
    · rfl

theorem toReal_refMul (x y : Number) : (refMul x y).toReal = x.toReal * y.toReal := by
  unfold refMul
  split
  · simp
  · split
    · next h => rcases h with h | h <;> simp [h]
    · rfl

theorem toReal_refDiv (x y : Number) : (refDiv x y).toReal = x.toReal / y.toReal := by
  unfold refDiv
  split
  · simp
  · split
    · next h => simp [h]
    · rfl

theorem toReal_neg (x : Number) : (Number.neg x).toReal = -x.toReal := by
  simp [Number.neg, toReal_refSub]

theorem piCoefficient_some {x : Number} {q : Rat} (h : piCoefficient x = some q) : x.toReal = q * Real.pi := by
  induction x using piCoefficient.induct generalizing q with
  | case1 => simp only [piCoefficient, Option.some.injEq] at h; simp [← h]
  | case2 x c ih =>
    simp only [piCoefficient, Option.map_eq_some_iff] at h
    obtain ⟨a, ha, rfl⟩ := h
    simp [ih ha]; ring
  | case3 c y hy ih =>
    simp only [piCoefficient, Option.map_eq_some_iff] at h
    obtain ⟨a, ha, rfl⟩ := h
    simp [ih ha]; ring
  | case4 x h₁ h₂ h₃ => simp [piCoefficient] at h

/-- The sine takes the value of `rationalSine` at that many half turns. -/
theorem rationalSine_some {q s : Rat} (h : rationalSine q = some s) : Real.sin (q * Real.pi) = s := by
  have period : Real.sin (q * Real.pi) = Real.sin (((q - 2 * ⌊q / 2⌋ : Rat) : ℝ) * Real.pi) := by
    rw [← Real.sin_sub_int_mul_two_pi _ ⌊q / 2⌋]; push_cast; ring_nf
  unfold rationalSine at h
  rw [period]
  revert h
  generalize q - 2 * ⌊q / 2⌋ = r
  dsimp only
  intro h
  split at h
  · next hr => cases h; rcases hr with rfl | rfl <;> simp
  split at h
  · next hr =>
    cases h
    rcases hr with rfl | rfl
    · rw [show ((1 / 6 : Rat) : ℝ) * Real.pi = Real.pi / 6 by push_cast; ring, Real.sin_pi_div_six]; norm_num
    · rw [show ((5 / 6 : Rat) : ℝ) * Real.pi = Real.pi - Real.pi / 6 by push_cast; ring, Real.sin_pi_sub,
        Real.sin_pi_div_six]; norm_num
  split at h
  · next hr => cases h; subst hr; rw [show ((1 / 2 : Rat) : ℝ) * Real.pi = Real.pi / 2 by push_cast; ring]; simp
  split at h
  · next hr =>
    cases h
    rcases hr with rfl | rfl
    · rw [show ((7 / 6 : Rat) : ℝ) * Real.pi = Real.pi / 6 + Real.pi by push_cast; ring, Real.sin_add_pi,
        Real.sin_pi_div_six]; norm_num
    · rw [show ((11 / 6 : Rat) : ℝ) * Real.pi = 2 * Real.pi - Real.pi / 6 by push_cast; ring, Real.sin_two_pi_sub,
        Real.sin_pi_div_six]; norm_num
  split at h
  · next hr =>
    cases h; subst hr
    rw [show ((3 / 2 : Rat) : ℝ) * Real.pi = Real.pi / 2 + Real.pi by push_cast; ring, Real.sin_add_pi]; simp
  · cases h

theorem toReal_refSin (x : Number) : (refSin x).toReal = Real.sin x.toReal := by
  unfold refSin
  split
  · next h => simp [h]
  · split
    · next q h =>
      obtain ⟨c, hc, hs⟩ := Option.bind_eq_some_iff.mp h
      rw [piCoefficient_some hc, rationalSine_some hs]; rfl
    · rfl

theorem twoToInt_eq (n : Int) : ((twoToInt n : Rat) : ℝ) = (2 : ℝ) ^ n := by
  unfold twoToInt
  split
  · next h =>
    obtain ⟨m, rfl⟩ := Int.eq_ofNat_of_zero_le h
    simp
  · next h =>
    obtain ⟨m, hm⟩ := Int.eq_ofNat_of_zero_le (Int.neg_nonneg_of_nonpos (le_of_lt (not_le.mp h)))
    rw [show n = -(m : Int) by omega]
    simp

theorem rat_of_den_one {q : Rat} (h : q.den = 1) : (q : ℝ) = (q.num : ℝ) := by
  have := Rat.den_eq_one_iff q |>.mp h
  exact_mod_cast congrArg (Rat.cast (K := ℝ)) this.symm

theorem toReal_refExp2 (x : Number) : (refExp2 x).toReal = (2 : ℝ) ^ x.toReal := by
  unfold refExp2
  split
  · split
    · next q h => rw [toReal_rat, toReal_rat, rat_of_den_one h, twoToInt_eq, Real.rpow_intCast]
    · rfl
  · rfl

theorem exactRoot_some {q n r : Nat} (hq : q ≠ 0) (h : exactRoot q n = some r) : r ^ q = n := by
  unfold exactRoot at h
  split at h
  · next hn =>
    cases h
    interval_cases n
    · exact zero_pow hq
    · exact one_pow q
  · split at h
    · cases h
    · dsimp only at h
      split at h
      · next hr => cases h; exact hr
      · cases h

theorem rationalPower_some {b e p : Rat} (h : rationalPower b e = some p) : (b : ℝ) ^ (e : ℝ) = p := by
  unfold rationalPower at h
  split at h
  · cases h
  next he =>
  have hnum : 0 ≤ e.num := Rat.num_nonneg.mpr (not_lt.mp he)
  have hcast : ((e.num.toNat : Nat) : ℝ) = (e.num : ℝ) := by
    exact_mod_cast congrArg (Int.cast (R := ℝ)) (Int.toNat_of_nonneg hnum)
  split at h
  · next hd =>
    cases h
    rw [rat_of_den_one hd, ← hcast, Real.rpow_natCast]; push_cast; rfl
  split at h
  · cases h
  next hb =>
  split at h
  · next n d hn hd =>
    cases h
    have hq : e.den ≠ 0 := e.den_nz
    have hn' : (n : ℝ) ^ e.den = (b.num : ℝ) := by
      have h1 := exactRoot_some hq hn
      have h2 : ((b.num.toNat : Nat) : ℝ) = (b.num : ℝ) := by
        exact_mod_cast congrArg (Int.cast (R := ℝ)) (Int.toNat_of_nonneg (Rat.num_nonneg.mpr (not_lt.mp hb)))
      rw [← h2, ← h1]; push_cast; rfl
    have hd' : (d : ℝ) ^ e.den = (b.den : ℝ) := by
      have h1 := exactRoot_some hq hd
      rw [← h1]; push_cast; rfl
    have hbase : (b : ℝ) = ((n : ℝ) / d) ^ e.den := by
      rw [div_pow, hn', hd']; exact_mod_cast congrArg (Rat.cast (K := ℝ)) (Rat.num_div_den b).symm
    have hexp : (e : ℝ) = (e.num : ℝ) / (e.den : ℝ) := by
      exact_mod_cast congrArg (Rat.cast (K := ℝ)) (Rat.num_div_den e).symm
    rw [hbase, hexp, ← hcast, ← Real.rpow_natCast, ← Real.rpow_mul (by positivity),
      mul_div_cancel₀ _ (by exact_mod_cast hq), Real.rpow_natCast]
    push_cast; rfl
  · cases h

theorem toReal_refPow (b e : Number) : (refPow b e).toReal = b.toReal ^ e.toReal := by
  unfold refPow
  split
  · split
    · next h => exact (rationalPower_some h).symm
    · rfl
  · rfl

@[simp] theorem numRef_add : numRef.add = refAdd := rfl
@[simp] theorem numRef_sub : numRef.sub = refSub := rfl
@[simp] theorem numRef_mul : numRef.mul = refMul := rfl
@[simp] theorem numRef_div : numRef.div = refDiv := rfl
@[simp] theorem numRef_floor : numRef.floor = Number.floor := rfl
@[simp] theorem numRef_sin : numRef.sin = refSin := rfl
@[simp] theorem numRef_pi : numRef.pi = .pi := rfl
@[simp] theorem numRef_exp2 : numRef.exp2 = refExp2 := rfl
@[simp] theorem numRef_pow : numRef.pow = refPow := rfl
@[simp] theorem numRef_shortCircuit : numRef.shortCircuit = false := rfl

/-- R91: the sine of `p * i` turns. -/
theorem toReal_sinTurn (p : Number) (i : Nat) :
    (sinTurn numRef p i).toReal = Real.sin (2 * Real.pi * p.toReal * i) := by
  by_cases h : i = 1
  · simp [sinTurn, h, toReal_refSin, toReal_refMul]
  · simp [sinTurn, h, toReal_refSin, toReal_refMul]

/-- The fraction of a number lies in [0, 1). -/
theorem unitOf_range (x : Number) : 0 ≤ (unitOf x).toReal ∧ (unitOf x).toReal < 1 := by
  simp only [unitOf, toReal_refSub, floor_eq, toReal_rat, Rat.cast_intCast]
  exact ⟨sub_nonneg.mpr (Int.floor_le _), by linarith [Int.lt_floor_add_one x.toReal]⟩

/-- Every number in [0, 1) is its own fraction: no real is shut out. -/
theorem unitOf_of_mem {x : Number} (h₀ : 0 ≤ x.toReal) (h₁ : x.toReal < 1) : (unitOf x).toReal = x.toReal := by
  have : ⌊x.toReal⌋ = 0 := Int.floor_eq_zero_iff.mpr ⟨h₀, h₁⟩
  simp [unitOf, toReal_refSub, floor_eq, this]

/-- R88: under the reference arithmetic the wrapped phase is the fractional part. -/
theorem toReal_wrapPhase (ph f dt : Number) :
    (wrapPhase numRef ph f dt).toReal = Int.fract (ph.toReal + f.toReal * dt.toReal) := by
  simp only [wrapPhase, numRef_add, numRef_sub, numRef_mul, numRef_floor, floor_eq, toReal_refSub, toReal_refAdd,
    toReal_refMul, toReal_rat, Rat.cast_intCast, Int.self_sub_floor]

/-! ### An implementation's arithmetic -/

theorem lawful_spec {α : Type} {law : α → Prop} {f other : α} (h : law other) : law (lawful law f other) := by
  unfold lawful
  split
  · next hf => exact (decideReal_iff _).mp hf
  · exact h

/-- Nothing is shut out: a value that meets the law is taken. -/
theorem lawful_of {α : Type} {law : α → Prop} {f other : α} (h : law f) : lawful law f other = f :=
  if_pos ((decideReal_iff _).mpr h)

/-! R10: the operations of an implementation are functions of their operands, and `EXP2` has its named properties. -/

theorem numImpl_add : OfReals numImpl.add := lawful_spec fun _ _ _ _ _ _ => rfl
theorem numImpl_sub : OfReals numImpl.sub := lawful_spec fun _ _ _ _ _ _ => rfl
theorem numImpl_mul : OfReals numImpl.mul := lawful_spec fun _ _ _ _ _ _ => rfl
theorem numImpl_div : OfReals numImpl.div := lawful_spec fun _ _ _ _ _ _ => rfl
theorem numImpl_pow : OfReals numImpl.pow := lawful_spec fun _ _ _ _ _ _ => rfl
theorem numImpl_floor : OfReal numImpl.floor := lawful_spec fun _ _ _ => rfl
theorem numImpl_sin : OfReal numImpl.sin := lawful_spec fun _ _ _ => rfl
theorem numImpl_exp2 : Exp2Lawful numImpl.exp2 :=
  lawful_spec ⟨fun _ _ _ => rfl, fun _ _ => by simp, fun _ _ _ => le_rfl⟩

end Sys2Proof.Machine
end

