-- ==== Sys2Proof/Laws/State.lean ====
section
/-! SUPPORT. One lemma per field of the state and per update of it. -/

namespace Sys2Proof.Machine

/-! ### `State.setOsc` -/

@[simp] theorem params_setOsc (s : State) (k : Fin 16) (o : OscUnit) : (s.setOsc k o).params = s.params := rfl
@[simp] theorem osc_setOsc (s : State) (k : Fin 16) (o : OscUnit) : (s.setOsc k o).osc = s.osc.set k o := rfl
@[simp] theorem gain_setOsc (s : State) (k : Fin 16) (o : OscUnit) : (s.setOsc k o).gain = s.gain := rfl
@[simp] theorem bern_setOsc (s : State) (k : Fin 16) (o : OscUnit) : (s.setOsc k o).bern = s.bern := rfl
@[simp] theorem logic_setOsc (s : State) (k : Fin 16) (o : OscUnit) : (s.setOsc k o).logic = s.logic := rfl
@[simp] theorem refused_setOsc (s : State) (k : Fin 16) (o : OscUnit) : (s.setOsc k o).refused = s.refused := rfl
@[simp] theorem bus_setOsc (s : State) (k : Fin 16) (o : OscUnit) : (s.setOsc k o).bus = s.bus := rfl
@[simp] theorem record_setOsc (s : State) (k : Fin 16) (o : OscUnit) : (s.setOsc k o).record = s.record := rfl
@[simp] theorem pending_setOsc (s : State) (k : Fin 16) (o : OscUnit) : (s.setOsc k o).pending = s.pending := rfl
@[simp] theorem emitted_setOsc (s : State) (k : Fin 16) (o : OscUnit) : (s.setOsc k o).emitted = s.emitted := rfl
@[simp] theorem report_setOsc (s : State) (k : Fin 16) (o : OscUnit) : (s.setOsc k o).report = s.report := rfl

/-! ### `State.setGain` -/

@[simp] theorem params_setGain (s : State) (k : Fin 16) (g : GainUnit) : (s.setGain k g).params = s.params := rfl
@[simp] theorem osc_setGain (s : State) (k : Fin 16) (g : GainUnit) : (s.setGain k g).osc = s.osc := rfl
@[simp] theorem gain_setGain (s : State) (k : Fin 16) (g : GainUnit) : (s.setGain k g).gain = s.gain.set k g := rfl
@[simp] theorem bern_setGain (s : State) (k : Fin 16) (g : GainUnit) : (s.setGain k g).bern = s.bern := rfl
@[simp] theorem logic_setGain (s : State) (k : Fin 16) (g : GainUnit) : (s.setGain k g).logic = s.logic := rfl
@[simp] theorem refused_setGain (s : State) (k : Fin 16) (g : GainUnit) : (s.setGain k g).refused = s.refused := rfl
@[simp] theorem bus_setGain (s : State) (k : Fin 16) (g : GainUnit) : (s.setGain k g).bus = s.bus := rfl
@[simp] theorem record_setGain (s : State) (k : Fin 16) (g : GainUnit) : (s.setGain k g).record = s.record := rfl
@[simp] theorem pending_setGain (s : State) (k : Fin 16) (g : GainUnit) : (s.setGain k g).pending = s.pending := rfl
@[simp] theorem emitted_setGain (s : State) (k : Fin 16) (g : GainUnit) : (s.setGain k g).emitted = s.emitted := rfl
@[simp] theorem report_setGain (s : State) (k : Fin 16) (g : GainUnit) : (s.setGain k g).report = s.report := rfl

/-! ### `State.setBern` -/

@[simp] theorem params_setBern (s : State) (k : Fin 16) (b : BernUnit) : (s.setBern k b).params = s.params := rfl
@[simp] theorem osc_setBern (s : State) (k : Fin 16) (b : BernUnit) : (s.setBern k b).osc = s.osc := rfl
@[simp] theorem gain_setBern (s : State) (k : Fin 16) (b : BernUnit) : (s.setBern k b).gain = s.gain := rfl
@[simp] theorem bern_setBern (s : State) (k : Fin 16) (b : BernUnit) : (s.setBern k b).bern = s.bern.set k b := rfl
@[simp] theorem logic_setBern (s : State) (k : Fin 16) (b : BernUnit) : (s.setBern k b).logic = s.logic := rfl
@[simp] theorem refused_setBern (s : State) (k : Fin 16) (b : BernUnit) : (s.setBern k b).refused = s.refused := rfl
@[simp] theorem bus_setBern (s : State) (k : Fin 16) (b : BernUnit) : (s.setBern k b).bus = s.bus := rfl
@[simp] theorem record_setBern (s : State) (k : Fin 16) (b : BernUnit) : (s.setBern k b).record = s.record := rfl
@[simp] theorem pending_setBern (s : State) (k : Fin 16) (b : BernUnit) : (s.setBern k b).pending = s.pending := rfl
@[simp] theorem emitted_setBern (s : State) (k : Fin 16) (b : BernUnit) : (s.setBern k b).emitted = s.emitted := rfl
@[simp] theorem report_setBern (s : State) (k : Fin 16) (b : BernUnit) : (s.setBern k b).report = s.report := rfl

/-! ### `State.setLogic` -/

@[simp] theorem params_setLogic (s : State) (k : Fin 16) (l : LogicUnit) : (s.setLogic k l).params = s.params := rfl
@[simp] theorem osc_setLogic (s : State) (k : Fin 16) (l : LogicUnit) : (s.setLogic k l).osc = s.osc := rfl
@[simp] theorem gain_setLogic (s : State) (k : Fin 16) (l : LogicUnit) : (s.setLogic k l).gain = s.gain := rfl
@[simp] theorem bern_setLogic (s : State) (k : Fin 16) (l : LogicUnit) : (s.setLogic k l).bern = s.bern := rfl
@[simp] theorem logic_setLogic (s : State) (k : Fin 16) (l : LogicUnit) : (s.setLogic k l).logic = s.logic.set k l := rfl
@[simp] theorem refused_setLogic (s : State) (k : Fin 16) (l : LogicUnit) : (s.setLogic k l).refused = s.refused := rfl
@[simp] theorem bus_setLogic (s : State) (k : Fin 16) (l : LogicUnit) : (s.setLogic k l).bus = s.bus := rfl
@[simp] theorem record_setLogic (s : State) (k : Fin 16) (l : LogicUnit) : (s.setLogic k l).record = s.record := rfl
@[simp] theorem pending_setLogic (s : State) (k : Fin 16) (l : LogicUnit) : (s.setLogic k l).pending = s.pending := rfl
@[simp] theorem emitted_setLogic (s : State) (k : Fin 16) (l : LogicUnit) : (s.setLogic k l).emitted = s.emitted := rfl
@[simp] theorem report_setLogic (s : State) (k : Fin 16) (l : LogicUnit) : (s.setLogic k l).report = s.report := rfl

/-! ### `State.setFmMode` -/

@[simp] theorem params_setFmMode (s : State) (k : Fin 16) (m : FmMode) : (s.setFmMode k m).params = s.params := rfl
@[simp] theorem osc_setFmMode (s : State) (k : Fin 16) (m : FmMode) : (s.setFmMode k m).osc = s.osc.set k { s.osc[k] with fmMode := m } := rfl
@[simp] theorem gain_setFmMode (s : State) (k : Fin 16) (m : FmMode) : (s.setFmMode k m).gain = s.gain := rfl
@[simp] theorem bern_setFmMode (s : State) (k : Fin 16) (m : FmMode) : (s.setFmMode k m).bern = s.bern := rfl
@[simp] theorem logic_setFmMode (s : State) (k : Fin 16) (m : FmMode) : (s.setFmMode k m).logic = s.logic := rfl
@[simp] theorem refused_setFmMode (s : State) (k : Fin 16) (m : FmMode) : (s.setFmMode k m).refused = s.refused := rfl
@[simp] theorem bus_setFmMode (s : State) (k : Fin 16) (m : FmMode) : (s.setFmMode k m).bus = s.bus := rfl
@[simp] theorem record_setFmMode (s : State) (k : Fin 16) (m : FmMode) : (s.setFmMode k m).record = s.record := rfl
@[simp] theorem pending_setFmMode (s : State) (k : Fin 16) (m : FmMode) : (s.setFmMode k m).pending = s.pending := rfl
@[simp] theorem emitted_setFmMode (s : State) (k : Fin 16) (m : FmMode) : (s.setFmMode k m).emitted = s.emitted := rfl
@[simp] theorem report_setFmMode (s : State) (k : Fin 16) (m : FmMode) : (s.setFmMode k m).report = s.report := rfl

/-! ### `State.emit` -/

@[simp] theorem params_emit (s : State) (r : Record) : (s.emit r).params = s.params := rfl
@[simp] theorem osc_emit (s : State) (r : Record) : (s.emit r).osc = s.osc := rfl
@[simp] theorem gain_emit (s : State) (r : Record) : (s.emit r).gain = s.gain := rfl
@[simp] theorem bern_emit (s : State) (r : Record) : (s.emit r).bern = s.bern := rfl
@[simp] theorem logic_emit (s : State) (r : Record) : (s.emit r).logic = s.logic := rfl
@[simp] theorem refused_emit (s : State) (r : Record) : (s.emit r).refused = s.refused := rfl
@[simp] theorem bus_emit (s : State) (r : Record) : (s.emit r).bus = s.bus := rfl
@[simp] theorem record_emit (s : State) (r : Record) : (s.emit r).record = s.record := rfl
@[simp] theorem pending_emit (s : State) (r : Record) : (s.emit r).pending = s.pending := rfl
@[simp] theorem emitted_emit (s : State) (r : Record) : (s.emit r).emitted = s.emitted ++ [r] := rfl
@[simp] theorem report_emit (s : State) (r : Record) : (s.emit r).report = s.report := rfl

/-! ### `State.take` -/

@[simp] theorem params_take (s : State) (d : Delivery) (rest : List Delivery) : (s.take d rest).params = s.params := rfl
@[simp] theorem osc_take (s : State) (d : Delivery) (rest : List Delivery) : (s.take d rest).osc = s.osc := rfl
@[simp] theorem gain_take (s : State) (d : Delivery) (rest : List Delivery) : (s.take d rest).gain = s.gain := rfl
@[simp] theorem bern_take (s : State) (d : Delivery) (rest : List Delivery) : (s.take d rest).bern = s.bern := rfl
@[simp] theorem logic_take (s : State) (d : Delivery) (rest : List Delivery) : (s.take d rest).logic = s.logic := rfl
@[simp] theorem refused_take (s : State) (d : Delivery) (rest : List Delivery) : (s.take d rest).refused = s.refused := rfl
@[simp] theorem bus_take (s : State) (d : Delivery) (rest : List Delivery) : (s.take d rest).bus = d.bus := rfl
@[simp] theorem record_take (s : State) (d : Delivery) (rest : List Delivery) : (s.take d rest).record = d.record := rfl
@[simp] theorem pending_take (s : State) (d : Delivery) (rest : List Delivery) : (s.take d rest).pending = rest := rfl
@[simp] theorem emitted_take (s : State) (d : Delivery) (rest : List Delivery) : (s.take d rest).emitted = s.emitted := rfl
@[simp] theorem report_take (s : State) (d : Delivery) (rest : List Delivery) : (s.take d rest).report = none := rfl

/-! ### `State.refuse` -/

@[simp] theorem params_refuse (s : State) (r : RefuseReason) (w : Word) : (s.refuse r w).params = s.params := rfl
@[simp] theorem osc_refuse (s : State) (r : RefuseReason) (w : Word) : (s.refuse r w).osc = s.osc := rfl
@[simp] theorem gain_refuse (s : State) (r : RefuseReason) (w : Word) : (s.refuse r w).gain = s.gain := rfl
@[simp] theorem bern_refuse (s : State) (r : RefuseReason) (w : Word) : (s.refuse r w).bern = s.bern := rfl
@[simp] theorem logic_refuse (s : State) (r : RefuseReason) (w : Word) : (s.refuse r w).logic = s.logic := rfl
@[simp] theorem refused_refuse (s : State) (r : RefuseReason) (w : Word) : (s.refuse r w).refused = true := rfl
@[simp] theorem bus_refuse (s : State) (r : RefuseReason) (w : Word) : (s.refuse r w).bus = s.bus := rfl
@[simp] theorem record_refuse (s : State) (r : RefuseReason) (w : Word) : (s.refuse r w).record = s.record := rfl
@[simp] theorem pending_refuse (s : State) (r : RefuseReason) (w : Word) : (s.refuse r w).pending = s.pending := rfl
@[simp] theorem emitted_refuse (s : State) (r : RefuseReason) (w : Word) : (s.refuse r w).emitted = s.emitted := rfl
@[simp] theorem report_refuse (s : State) (r : RefuseReason) (w : Word) : (s.refuse r w).report = some ⟨r, w⟩ := rfl

/-! ### `State.deliver` -/

@[simp] theorem params_deliver (s : State) (d : Delivery) : (s.deliver d).params = s.params := rfl
@[simp] theorem osc_deliver (s : State) (d : Delivery) : (s.deliver d).osc = s.osc := rfl
@[simp] theorem gain_deliver (s : State) (d : Delivery) : (s.deliver d).gain = s.gain := rfl
@[simp] theorem bern_deliver (s : State) (d : Delivery) : (s.deliver d).bern = s.bern := rfl
@[simp] theorem logic_deliver (s : State) (d : Delivery) : (s.deliver d).logic = s.logic := rfl
@[simp] theorem refused_deliver (s : State) (d : Delivery) : (s.deliver d).refused = s.refused := rfl
@[simp] theorem bus_deliver (s : State) (d : Delivery) : (s.deliver d).bus = s.bus := rfl
@[simp] theorem record_deliver (s : State) (d : Delivery) : (s.deliver d).record = s.record := rfl
@[simp] theorem pending_deliver (s : State) (d : Delivery) : (s.deliver d).pending = d :: s.pending := rfl
@[simp] theorem emitted_deliver (s : State) (d : Delivery) : (s.deliver d).emitted = s.emitted := rfl
@[simp] theorem report_deliver (s : State) (d : Delivery) : (s.deliver d).report = s.report := rfl

/-! ### `State.resetUnits` -/

@[simp] theorem params_resetUnits (s : State) : (s.resetUnits).params = s.params := rfl
@[simp] theorem refused_resetUnits (s : State) : (s.resetUnits).refused = s.refused := rfl
@[simp] theorem bus_resetUnits (s : State) : (s.resetUnits).bus = s.bus := rfl
@[simp] theorem record_resetUnits (s : State) : (s.resetUnits).record = s.record := rfl
@[simp] theorem pending_resetUnits (s : State) : (s.resetUnits).pending = s.pending := rfl
@[simp] theorem emitted_resetUnits (s : State) : (s.resetUnits).emitted = s.emitted := rfl
@[simp] theorem report_resetUnits (s : State) : (s.resetUnits).report = s.report := rfl

end Sys2Proof.Machine
end

