-- ==== Sys2Proof/Laws/Ops.lean ====
section
/-! SUPPORT. One lemma per shared operation: what it can do. -/

namespace Sys2Proof.Machine

/-! ### Naming a unit -/

theorem unitIndex_of_lt {n : Nat} {k : Fin 16} (h : k.val < n) : unitIndex n k.val = some k := by
  simp [unitIndex, h, k.isLt]

theorem unitIndex_of_le {n u : Nat} (h : n ≤ u) : unitIndex n u = none := by
  simp [unitIndex, Nat.not_lt.mpr h]

theorem unitIndex_some {n u : Nat} {k : Fin 16} (h : unitIndex n u = some k) : k.val = u ∧ u < n := by
  unfold unitIndex at h
  split at h
  · next hc => exact ⟨by rw [← Option.some.inj h], hc.1⟩
  · cases h

/-! ### Unit files: reading what was written -/

theorem set_get_same {α : Type} (v : Vector α 16) (k : Fin 16) (x : α) : (v.set k x)[k] = x := by
  simp

theorem set_get_other {α : Type} (v : Vector α 16) {k j : Fin 16} (x : α) (h : j ≠ k) : (v.set k x)[j] = v[j] := by
  have : k.val ≠ j.val := fun e => h (Fin.ext e.symm)
  simp [this]

theorem set_get_self {α : Type} (v : Vector α 16) (k : Fin 16) : v.set k v[k] = v := by
  simp

theorem ofFn_get {α : Type} (f : Fin 16 → α) (k : Fin 16) : (Vector.ofFn f)[k] = f k := by
  simp

theorem vector_ext {α : Type} {v w : Vector α 16} (h : ∀ k : Fin 16, v[k] = w[k]) : v = w := by
  ext i hi
  simpa using h ⟨i, hi⟩

/-! ### Frames of the four unit writes -/

theorem frame_setOsc (s : State) (k : Fin 16) (o : OscUnit) : FrameOsc k s (s.setOsc k o) :=
  ⟨⟨rfl, rfl, rfl, rfl, rfl, rfl, rfl⟩, fun _ h => set_get_other _ _ h, rfl, rfl, rfl⟩

theorem frame_setGain (s : State) (k : Fin 16) (g : GainUnit) : FrameGain k s (s.setGain k g) :=
  ⟨⟨rfl, rfl, rfl, rfl, rfl, rfl, rfl⟩, fun _ h => set_get_other _ _ h, rfl, rfl, rfl⟩

theorem frame_setBern (s : State) (k : Fin 16) (b : BernUnit) : FrameBern k s (s.setBern k b) :=
  ⟨⟨rfl, rfl, rfl, rfl, rfl, rfl, rfl⟩, fun _ h => set_get_other _ _ h, rfl, rfl, rfl⟩

theorem frame_setLogic (s : State) (k : Fin 16) (l : LogicUnit) : FrameLogic k s (s.setLogic k l) :=
  ⟨⟨rfl, rfl, rfl, rfl, rfl, rfl, rfl⟩, fun _ h => set_get_other _ _ h, rfl, rfl, rfl⟩

theorem osc_setOsc_same (s : State) (k : Fin 16) (o : OscUnit) : (s.setOsc k o).osc[k] = o := set_get_same _ _ _
theorem gain_setGain_same (s : State) (k : Fin 16) (g : GainUnit) : (s.setGain k g).gain[k] = g := set_get_same _ _ _
theorem bern_setBern_same (s : State) (k : Fin 16) (b : BernUnit) : (s.setBern k b).bern[k] = b := set_get_same _ _ _
theorem logic_setLogic_same (s : State) (k : Fin 16) (l : LogicUnit) : (s.setLogic k l).logic[k] = l :=
  set_get_same _ _ _

/-- R137: what a refusal does. -/
theorem refusedWith_refuse (s : State) (r : RefuseReason) (w : Word) : RefusedWith r w s (s.refuse r w) :=
  ⟨rfl, rfl, rfl, rfl, rfl, rfl, rfl, rfl, rfl, rfl, rfl⟩

/-- Every command ends in a next state: its own, or a refusal. -/
theorem settle_next {w : Word} {s t : State} {r : Except RefuseReason State} (h : settle w s r = .next t) :
    r = .ok t ∨ ∃ e, r = .error e ∧ t = s.refuse e w := by
  cases r with
  | ok a => exact .inl (by rw [Host.Outcome.next.inj h])
  | error e => exact .inr ⟨e, rfl, (Host.Outcome.next.inj h).symm⟩

/-! ### Publishing -/

theorem publish_ch (o : OutPort) (n : Nat) (f : Fin 16 → Cell) : (o.publish n f).ch = n := rfl

theorem publish_cell_below (o : OutPort) {n : Nat} (f : Fin 16 → Cell) {c : Fin 16} (h : c.val < n) :
    (o.publish n f).cells[c] = f c := by
  simp [OutPort.publish, h]

theorem publish_cell_beyond (o : OutPort) {n : Nat} (f : Fin 16 → Cell) {c : Fin 16} (h : n ≤ c.val) :
    (o.publish n f).cells[c] = o.cells[c] := by
  simp [OutPort.publish, Nat.not_lt.mpr h]

theorem publishMono_ch (o : OutPort) (v : Number) : (o.publishMono v).ch = 1 := rfl

theorem publishMono_zero (o : OutPort) (v : Number) : (o.publishMono v).cells[0] = .val v := by
  simp [OutPort.publishMono, OutPort.publish]

theorem publishMono_other (o : OutPort) (v : Number) {c : Fin 16} (h : c ≠ 0) :
    (o.publishMono v).cells[c] = o.cells[c] := by
  have : c.val ≠ 0 := fun e => h (Fin.ext e)
  exact publish_cell_beyond o _ (Nat.one_le_iff_ne_zero.mpr this)

/-- Publishing the same value twice is publishing it once. -/
theorem publishMono_twice (o : OutPort) (v : Number) : (o.publishMono v).publishMono v = o.publishMono v := by
  refine congrArg (OutPort.mk 1) (vector_ext fun c => ?_)
  rw [ofFn_get]
  split
  · next h => exact (publish_cell_below o (fun _ => Cell.val v) h).symm
  · rfl

/-! ### Draws and lanes -/

/-- R117: what a draw takes, and where it lies. -/
theorem draw_named (k : Fin 16) (o : Oracle) {r : Number} {rest : List Number} (h : o.named = r :: rest) :
    o.draw k = (r, ⟨rest, o.taken + 1⟩) := by
  simp [Oracle.draw, h]

theorem draw_unnamed (k : Fin 16) (o : Oracle) (h : o.named = []) :
    o.draw k = (unitOf (Config.randTail k.val o.taken), ⟨[], o.taken + 1⟩) := by
  simp [Oracle.draw, h]

/-- R49: lane 0 of a port with its count in range is never a drawn value. -/
theorem readMono_eq_read (p : InPort) (h : p.chOk = true) (drawn : Number) :
    p.readMono = p.read 0 (.rat 0) drawn := by
  have hc : 0 ≤ p.ch := by simp [InPort.chOk] at h; exact h.1
  unfold InPort.readMono InPort.read
  by_cases h0 : p.ch = 0
  · simp [h0]
  · by_cases h1 : p.ch = 1
    · simp [h1]
    · have : ((0 : Fin 16).val : Int) < p.ch := by simp; omega
      simp only [h0, h1, this, if_true, if_false]

/-- R117: a draw lies in [0, 1) when the named ones do. -/
theorem draw_range (k : Fin 16) (o : Oracle) (h : ∀ r ∈ o.named, 0 ≤ r.toReal ∧ r.toReal < 1) :
    0 ≤ (o.draw k).1.toReal ∧ (o.draw k).1.toReal < 1 := by
  unfold Oracle.draw
  split
  · next r rest hr => exact h r (by simp [hr])
  · exact unitOf_range _

end Sys2Proof.Machine
end

