-- ==== Sys2Proof/Laws/PerInstr.lean ====
section
/-! SUPPORT. Facts about every command as syntax, one lemma per constructor. -/

namespace Sys2Proof.Laws.RowOf

/-- The word of a well-formed command selects the command's own row of the opcode map (R68). -/
def Statement (i : Instr) : Prop := i.wellFormed = true → i.row.selects (encode i) = true

theorem unit_cases {P : Nat → Prop} (h : ∀ u : Fin 16, P u.val) {u : Nat} (hu : decide (u ≤ 15) = true) : P u :=
  h ⟨u, by have := of_decide_eq_true hu; omega⟩

theorem nop : Statement .nop := fun _ => by decide

theorem tickOsc (u : Nat) : Statement (.tickOsc u) := unit_cases
  (P := fun u => (Instr.tickOsc u).row.selects (encode (.tickOsc u)) = true) (by decide)

theorem tickGain (u : Nat) : Statement (.tickGain u) := unit_cases
  (P := fun u => (Instr.tickGain u).row.selects (encode (.tickGain u)) = true) (by decide)

theorem tickBern (u : Nat) : Statement (.tickBern u) := unit_cases
  (P := fun u => (Instr.tickBern u).row.selects (encode (.tickBern u)) = true) (by decide)

theorem tickLogic (u : Nat) : Statement (.tickLogic u) := unit_cases
  (P := fun u => (Instr.tickLogic u).row.selects (encode (.tickLogic u)) = true) (by decide)

theorem setMode (u : Nat) (m : FmMode) : Statement (.setMode u m) := by
  cases m
  · exact unit_cases (P := fun u => (Instr.setMode u .exponential).row.selects (encode (.setMode u .exponential)) = true)
      (by decide)
  · exact unit_cases (P := fun u => (Instr.setMode u .linear).row.selects (encode (.setMode u .linear)) = true)
      (by decide)

theorem saveCfg (u : Nat) : Statement (.saveCfg u) := unit_cases
  (P := fun u => (Instr.saveCfg u).row.selects (encode (.saveCfg u)) = true) (by decide)

theorem loadCfg (u : Nat) : Statement (.loadCfg u) := unit_cases
  (P := fun u => (Instr.loadCfg u).row.selects (encode (.loadCfg u)) = true) (by decide)

theorem reset : Statement .reset := fun _ => by decide

end Sys2Proof.Laws.RowOf
end

