-- ==== Sys2Proof/Laws/Step.lean ====
section
/-! SUPPORT. What a command and a step can do: one case analysis, from which the invariants follow. -/

namespace Sys2Proof.Machine

/-- Everything a command can do when it does not refuse, by unit. -/
inductive OwnEffect : Instr → State → State → Prop where
  | nop (s : State) : OwnEffect .nop s s
  | tickOsc (k : Fin 16) (s : State) (exists_ : k.val < s.params.nOsc) (ch : s.oscChannelsOk k = true)
      (control : s.oscControlBad k = false) (finite : s.oscReadsFinite k = true) :
      OwnEffect (.tickOsc k.val) s (s.setOsc k (s.oscAfter k))
  | tickGain (k : Fin 16) (s : State) (exists_ : k.val < s.params.nGain) (ch : s.gainChannelsOk k = true)
      (control : s.gainControlBad k = false) (pow : s.gainZeroPow k = false) (finite : s.gainReadsFinite k = true) :
      OwnEffect (.tickGain k.val) s (s.setGain k (s.gainAfter k))
  | tickBern (k : Fin 16) (s : State) (exists_ : k.val < s.params.nBern) (ch : s.bernChannelsOk k = true)
      (finite : s.bernReadsFinite k = true) : OwnEffect (.tickBern k.val) s (s.setBern k (s.bernAfter k))
  | tickLogic (k : Fin 16) (s : State) (exists_ : k.val < s.params.nLogic) (ch : s.logicChannelsOk k = true)
      (finite : s.logicReadsFinite k = true) : OwnEffect (.tickLogic k.val) s (s.setLogic k (s.logicAfter k))
  | setMode (k : Fin 16) (m : FmMode) (s : State) (exists_ : k.val < s.params.nOsc) :
      OwnEffect (.setMode k.val m) s (s.setFmMode k m)
  | saveCfg (k : Fin 16) (s : State) (exists_ : k.val < s.params.nOsc) :
      OwnEffect (.saveCfg k.val) s (s.emit (configRecord s.osc[k].fmMode))
  | loadCfg (k : Fin 16) (s : State) (exists_ : k.val < s.params.nOsc) :
      OwnEffect (.loadCfg k.val) s (s.setFmMode k (parseFmMode s.record))
  | reset (s : State) : OwnEffect .reset s s.resetUnits

theorem tickOsc_ok {u : Nat} {s t : State} (h : tickOsc u s = .ok t) : OwnEffect (.tickOsc u) s t := by
  unfold tickOsc at h
  split at h
  · cases h
  · next k hk =>
    obtain ⟨rfl, hlt⟩ := unitIndex_some hk
    split at h
    · cases h
    · next h1 =>
      split at h
      · cases h
      · next h2 =>
        split at h
        · cases h
        · next h3 =>
          cases h
          exact .tickOsc k s hlt (by simpa using h1) (by simpa using h2) (by simpa using h3)

theorem tickGain_ok {u : Nat} {s t : State} (h : tickGain u s = .ok t) : OwnEffect (.tickGain u) s t := by
  unfold tickGain at h
  split at h
  · cases h
  · next k hk =>
    obtain ⟨rfl, hlt⟩ := unitIndex_some hk
    split at h
    · cases h
    · next h1 =>
      split at h
      · cases h
      · next h2 =>
        split at h
        · cases h
        · next h3 =>
          split at h
          · cases h
          · next h4 =>
            cases h
            exact .tickGain k s hlt (by simpa using h1) (by simpa using h2) (by simpa using h3) (by simpa using h4)

theorem tickBern_ok {u : Nat} {s t : State} (h : tickBern u s = .ok t) : OwnEffect (.tickBern u) s t := by
  unfold tickBern at h
  split at h
  · cases h
  · next k hk =>
    obtain ⟨rfl, hlt⟩ := unitIndex_some hk
    split at h
    · cases h
    · next h1 =>
      split at h
      · cases h
      · next h2 =>
        cases h
        exact .tickBern k s hlt (by simpa using h1) (by simpa using h2)

theorem tickLogic_ok {u : Nat} {s t : State} (h : tickLogic u s = .ok t) : OwnEffect (.tickLogic u) s t := by
  unfold tickLogic at h
  split at h
  · cases h
  · next k hk =>
    obtain ⟨rfl, hlt⟩ := unitIndex_some hk
    split at h
    · cases h
    · next h1 =>
      split at h
      · cases h
      · next h2 =>
        cases h
        exact .tickLogic k s hlt (by simpa using h1) (by simpa using h2)

theorem setMode_ok {u : Nat} {m : FmMode} {s t : State} (h : setMode u m s = .ok t) :
    OwnEffect (.setMode u m) s t := by
  unfold setMode at h
  split at h
  · cases h
  · next k hk => obtain ⟨rfl, hlt⟩ := unitIndex_some hk; cases h; exact .setMode k m s hlt

theorem saveCfg_ok {u : Nat} {s t : State} (h : saveCfg u s = .ok t) : OwnEffect (.saveCfg u) s t := by
  unfold saveCfg at h
  split at h
  · cases h
  · next k hk => obtain ⟨rfl, hlt⟩ := unitIndex_some hk; cases h; exact .saveCfg k s hlt

theorem loadCfg_ok {u : Nat} {s t : State} (h : loadCfg u s = .ok t) : OwnEffect (.loadCfg u) s t := by
  unfold loadCfg at h
  split at h
  · cases h
  · next k hk => obtain ⟨rfl, hlt⟩ := unitIndex_some hk; cases h; exact .loadCfg k s hlt

/-- A command that answers a next state ran its own effect, or refused. -/
theorem exec_cases {i : Instr} {s t : State} (h : exec i s = .next t) :
    OwnEffect i s t ∨ ∃ r, t = s.refuse r (encode i) := by
  cases i with
  | nop => cases h; exact .inl (.nop s)
  | reset => cases h; exact .inl (.reset s)
  | tickOsc u =>
    rcases settle_next h with h | ⟨e, -, rfl⟩
    exacts [.inl (tickOsc_ok h), .inr ⟨e, rfl⟩]
  | tickGain u =>
    rcases settle_next h with h | ⟨e, -, rfl⟩
    exacts [.inl (tickGain_ok h), .inr ⟨e, rfl⟩]
  | tickBern u =>
    rcases settle_next h with h | ⟨e, -, rfl⟩
    exacts [.inl (tickBern_ok h), .inr ⟨e, rfl⟩]
  | tickLogic u =>
    rcases settle_next h with h | ⟨e, -, rfl⟩
    exacts [.inl (tickLogic_ok h), .inr ⟨e, rfl⟩]
  | setMode u m =>
    rcases settle_next h with h | ⟨e, -, rfl⟩
    exacts [.inl (setMode_ok h), .inr ⟨e, rfl⟩]
  | saveCfg u =>
    rcases settle_next h with h | ⟨e, -, rfl⟩
    exacts [.inl (saveCfg_ok h), .inr ⟨e, rfl⟩]
  | loadCfg u =>
    rcases settle_next h with h | ⟨e, -, rfl⟩
    exacts [.inl (loadCfg_ok h), .inr ⟨e, rfl⟩]

/-- A step idled, or took a command and ran it, or took a word that is no command and refused it. -/
theorem step_cases {s t : State} (h : step s = .next t) :
    (s.pending = [] ∧ t = s) ∨
    ∃ d rest, s.pending = d :: rest ∧
      ((∃ i, decode d.word = .ok i ∧ exec i (s.take d rest) = .next t) ∨
        ((∃ e, decode d.word = .error e) ∧ t = (s.take d rest).refuse .reservedEncoding d.word)) := by
  unfold step at h
  split at h
  · next hp => cases h; exact .inl ⟨hp, rfl⟩
  · next d rest hp =>
    refine .inr ⟨d, rest, hp, ?_⟩
    split at h
    · next i hi => exact .inl ⟨i, hi, h⟩
    · next e he => cases h; exact .inr ⟨⟨e, he⟩, rfl⟩

/-- The finite values are those that are a number. -/
@[simp] theorem isFinite_fin (x : Number) : (Value.fin x).isFinite = true := rfl

theorem isFinite_iff {v : Value} : v.isFinite = true ↔ ∃ q, v = .fin q := by
  cases v <;> simp [Value.isFinite]

theorem chOk_iff {p : InPort} : p.chOk = true ↔ 0 ≤ p.ch ∧ p.ch ≤ 16 := by
  simp [InPort.chOk]

end Sys2Proof.Machine
end

