-- ==== Sys2Proof/Laws/Ready.lean ====
section
/-! SUPPORT. A tick whose inputs are in order runs its own effect. -/

namespace Sys2Proof.Machine

theorem exec_tickOsc_ready {s : State} {k : Fin 16} (h : k.val < s.params.nOsc) (r : OscReady s k) :
    exec (.tickOsc k.val) s = .next (s.setOsc k (s.oscAfter k)) := by
  obtain ⟨hp, hf, ⟨sr, hsr, hsr0⟩, ⟨d, hd, hd0, hd1⟩, ⟨o, ho⟩, ⟨e, he⟩, ⟨dt, hdt⟩, ⟨b, hb⟩, ⟨sc, hsc⟩, hl⟩ := r
  have h1 : s.oscChannelsOk k = true := by simp only [State.oscChannelsOk, Bool.and_eq_true, chOk_iff]; exact ⟨hp, hf⟩
  have h2 : s.oscControlBad k = false := by
    simp only [State.oscControlBad, hsr, hd, Value.test, Bool.or_eq_false_iff, le_eq_false_iff, lt_eq_false_iff]
    exact ⟨by simpa using hsr0, by simpa using hd0, by simpa using hd1⟩
  have h3 : s.oscReadsFinite k = true := by
    simp only [State.oscReadsFinite, hsr, hd, ho, he, hdt, hb, hsc, isFinite_fin, Bool.true_and, decide_eq_true_eq]
    exact fun c hc => ⟨isFinite_iff.mpr (hl c hc).1, isFinite_iff.mpr (hl c hc).2⟩
  show settle _ s (tickOsc k.val s) = _
  simp only [tickOsc, unitIndex_of_lt h, h1, h2, h3, Bool.true_eq_false, Bool.false_eq_true, if_false, settle]

theorem exec_tickGain_ready {s : State} {k : Fin 16} (h : k.val < s.params.nGain) (r : GainReady s k) :
    exec (.tickGain k.val) s = .next (s.setGain k (s.gainAfter k)) := by
  obtain ⟨hi, hc, ⟨f, hf⟩, l, e, hl, he, hl0, he0, hz, hlane⟩ := r
  have h1 : s.gainChannelsOk k = true := by
    simp only [State.gainChannelsOk, Bool.and_eq_true, chOk_iff]; exact ⟨hi, hc⟩
  have h2 : s.gainControlBad k = false := by
    simp only [State.gainControlBad, hl, he, Value.test, Bool.or_eq_false_iff, lt_eq_false_iff]
    exact ⟨by simpa using hl0, by simpa using he0⟩
  have h3 : s.gainZeroPow k = false := by
    simp only [State.gainZeroPow, Bool.or_eq_false_iff, decide_eq_false_iff_not, not_exists]
    refine ⟨?_, fun c hcz => ?_⟩
    · simp only [State.levelZeroPow, hl, he, Value.test, Bool.and_eq_false_iff, eq_eq_false_iff]
      simpa using not_and_or.mp hz
    · obtain ⟨hcn, hb⟩ := hcz
      simp only [State.cvZeroPow, he, Value.test, Bool.and_eq_true, decide_eq_true_eq, InPort.connected] at hb
      exact ((hlane c hcn).2 hb.1.1.1.1).2 ⟨by simpa using eq_iff.mp hb.1.1.1.2, by simpa using eq_iff.mp hb.2⟩
  have h4 : s.gainReadsFinite k = true := by
    simp only [State.gainReadsFinite, hl, he, hf, isFinite_fin, Bool.true_and, decide_eq_true_eq]
    exact fun c hcn => ⟨isFinite_iff.mpr (hlane c hcn).1, fun hcon =>
      isFinite_iff.mpr ((hlane c hcn).2 (of_decide_eq_true hcon)).1⟩
  show settle _ s (tickGain k.val s) = _
  simp only [tickGain, unitIndex_of_lt h, h1, h2, h3, h4, Bool.true_eq_false, Bool.false_eq_true, if_false, settle]

theorem exec_tickBern_ready {s : State} {k : Fin 16} (h : k.val < s.params.nBern) (r : BernReady s k) :
    exec (.tickBern k.val) s = .next (s.setBern k (s.bernAfter k)) := by
  obtain ⟨hg, hp, hgf, hpf⟩ := r
  have h1 : s.bernChannelsOk k = true := by
    simp only [State.bernChannelsOk, Bool.and_eq_true, chOk_iff]; exact ⟨hg, hp⟩
  have h2 : s.bernReadsFinite k = true := by
    simp only [State.bernReadsFinite, Bool.and_eq_true, Bool.or_eq_true, Bool.not_eq_true', isFinite_iff]
    refine ⟨hgf, ?_⟩
    by_cases hf : s.bernFires k = true
    · by_cases hc : 1 ≤ s.bus.bern[k].prob.ch
      · exact .inr (hpf hf hc)
      · exact .inl (.inr (decide_eq_false hc))
    · exact .inl (.inl (by simpa using hf))
  show settle _ s (tickBern k.val s) = _
  simp only [tickBern, unitIndex_of_lt h, h1, h2, Bool.true_eq_false, if_false, settle]

theorem exec_tickLogic_ready {s : State} {k : Fin 16} (h : k.val < s.params.nLogic) (r : LogicReady s k) :
    exec (.tickLogic k.val) s = .next (s.setLogic k (s.logicAfter k)) := by
  obtain ⟨⟨ha, hav⟩, ⟨hb, hbv⟩, ⟨hx, hxv⟩, ⟨hy, hyv⟩⟩ := r
  have h1 : s.logicChannelsOk k = true := by
    simp only [State.logicChannelsOk, Bool.and_eq_true, chOk_iff]; exact ⟨⟨⟨ha, hb⟩, hx⟩, hy⟩
  have h2 : s.logicReadsFinite k = true := by
    simp only [State.logicReadsFinite, Bool.and_eq_true, isFinite_iff]; exact ⟨⟨⟨hav, hbv⟩, hxv⟩, hyv⟩
  show settle _ s (tickLogic k.val s) = _
  simp only [tickLogic, unitIndex_of_lt h, h1, h2, Bool.true_eq_false, if_false, settle]

end Sys2Proof.Machine
end

