-- ==== Sys2Proof/Tests/Slice0.lean ====
section
/-! SUPPORT. Tests on fixed values, their expected results taken from 95_test_vectors.md (the vector is named at each)
or from the encodings of 30_encoding.md, and for each obligation with hypotheses a witness that meets them. -/

namespace Sys2Proof.Tests

open Sys2Proof Sys2Proof.Machine

-- One test after another: many kernel evaluations at once need more thread stacks than the sandbox gives.
set_option Elab.async false

/-! ### Well-formedness: each check refuses an ill-formed command -/

theorem test_illformed_tickOsc : (Instr.tickOsc 16).wellFormed = false := by decide
theorem test_illformed_tickGain : (Instr.tickGain 16).wellFormed = false := by decide
theorem test_illformed_tickBern : (Instr.tickBern 16).wellFormed = false := by decide
theorem test_illformed_tickLogic : (Instr.tickLogic 16).wellFormed = false := by decide
theorem test_illformed_setMode : (Instr.setMode 16 .linear).wellFormed = false := by decide
theorem test_illformed_saveCfg : (Instr.saveCfg 16).wellFormed = false := by decide
theorem test_illformed_loadCfg : (Instr.loadCfg 16).wellFormed = false := by decide
theorem test_wellformed_boundary : (Instr.setMode 15 .linear).wellFormed = true := by decide

/-! ### Decoding, and encoding to the same words (V20; R94, R112, R120, R127, R128, R130 to R132, R135) -/

theorem test_decode_nop : decode 0b0000000000000000#16 = .ok .nop := by decide
theorem test_decode_tickOsc : decode 0b0001000100000000#16 = .ok (.tickOsc 1) := by decide
theorem test_decode_tickGain : decode 0b0010000000000000#16 = .ok (.tickGain 0) := by decide
theorem test_decode_tickBern : decode 0b0011100000000000#16 = .ok (.tickBern 8) := by decide
theorem test_decode_tickLogic : decode 0b0100111100000000#16 = .ok (.tickLogic 15) := by decide
theorem test_decode_setMode_linear : decode 0b0101000000000001#16 = .ok (.setMode 0 .linear) := by decide
theorem test_decode_setMode_exponential : decode 0b0101000000000000#16 = .ok (.setMode 0 .exponential) := by decide
theorem test_decode_saveCfg : decode 0b0110000000000000#16 = .ok (.saveCfg 0) := by decide
theorem test_decode_loadCfg : decode 0b0111000000000000#16 = .ok (.loadCfg 0) := by decide
theorem test_decode_reset : decode 0b1000000000000000#16 = .ok .reset := by decide
theorem test_encode_setMode : encode (.setMode 2 .linear) = 0b0101001000000001#16 := by decide
theorem test_encode_tickLogic : encode (.tickLogic 15) = 0b0100111100000000#16 := by decide

/-- V20: the illegal words below op 9. -/
theorem test_decode_illegal :
    decode 0x0001#16 = .error .mustBeZero ∧ decode 0x0100#16 = .error .mustBeZero ∧
      decode 0x1001#16 = .error .mustBeZero ∧ decode 0x3080#16 = .error .mustBeZero ∧
      decode 0x5002#16 = .error .mustBeZero ∧ decode 0x50FF#16 = .error .mustBeZero ∧
      decode 0x8001#16 = .error .mustBeZero ∧ decode 0x8100#16 = .error .mustBeZero :=
  ⟨rfl, rfl, rfl, rfl, rfl, rfl, rfl, rfl⟩

/-- V20: the reserved words. -/
theorem test_decode_reserved : decode 0x9000#16 = .error .reservedOpcode ∧ decode 0xFFFF#16 = .error .reservedOpcode :=
  ⟨rfl, rfl⟩

/-- V20: the low byte comes first on a stream. -/
theorem test_decode_bytes : decodeBytes [0x01#8, 0x50#8, 0xAA#8] = .ok (.setMode 0 .linear, [0xAA#8]) := by decide

/-- R56: one byte is no whole command. -/
theorem test_decode_truncated : decodeBytes [0x00#8] = .error .truncated := by decide

/-- The table's numbering of a word. -/
theorem test_decode_table_word : decodeTableWord 16 0x5101 = some (.setMode 1 .linear) := by decide

/-! ### The states the tests run on -/

/-- The reset state with an input port of unit 0 driven. -/
def input (kind port : Nat) (ch : Int) (values : List Value) (s : State) : State :=
  { s with bus := s.bus.setInPort s.params kind 0 port (.driven ch values) }

/-- A state with a control of unit 0, or a global, driven. -/
def control (kind port : Nat) (v : Value) (s : State) : State :=
  { s with bus := s.bus.setControl s.params kind 0 port v }

/-- A state whose oracle of Bernoulli unit 0 has its next draws named. -/
def drawn (named : List Number) (s : State) : State :=
  s.setBern 0 { s.bern[0] with oracle := ⟨named, 0⟩ }

/-- A state with other instance counts, all four the same. -/
def counts (n : Nat) (s : State) : State :=
  { s with params := { s.params with nOsc := n, nGain := n, nBern := n, nLogic := n } }

/-- What holds after one step that takes the word. -/
def after (w : Nat) (s : State) (f : State → Bool) : Bool :=
  match step (s.withFetchWord 16 w) with
  | .next t => f t
  | _ => false

/-- The next state of one command, when there is one. -/
def ran (i : Instr) (s : State) : State :=
  match exec i s with
  | .next t => t
  | _ => s

/-- The step refused for the reason, and set the mark. -/
def refusedFor (r : RefuseReason) (t : State) : Bool := t.refused && decide (t.report.map (·.reason) = some r)

/-- An output shows the channel count and, in lane 0, the value. -/
def shows (o : OutPort) (ch : Nat) (q : Rat) : Bool := decide (o.ch = ch) && decide (o.cells[0] = .val (.rat q))

/-! ### One step of each command -/

theorem test_nop : after 0x0000 State.reset (fun t => decide (t = State.reset)) = true := by decide +kernel

/-- V35, R94: pitches 0, 1, -1 with one FM channel of 1 at depth 1 give 200, 400, 100 Hz. -/
theorem test_tickOsc_lanes :
    after 0x1000 (State.reset |> input 0 0 3 [.ofRat 0, .ofRat 1, .ofRat (-1)] |> input 0 1 1 [.ofRat 1] |>
        control 0 2 (.ofRat 1) |> control 15 0 (.ofRat (1 / 1000)))
      (fun t => decide (t.osc[0].phase[0] = .rat (1 / 5) ∧ t.osc[0].phase[1] = .rat (2 / 5) ∧ t.osc[0].phase[2] = .rat (1 / 10) ∧
        t.osc[0].out.ch = 3)) = true := by decide +kernel

/-- V33: at phase 1/4 with weights 0 the output is the scale, 5. V90: a step of 1/4 from phase 0. -/
theorem test_tickOsc_output :
    after 0x1000 (State.reset |> control 15 0 (.ofRat (1 / 400))) (fun t => shows t.osc[0].out 1 5) = true := by
  decide +kernel

/-- V50: level 0.5, curve 2, CV 5 V, input 8 V. -/
theorem test_tickGain_cv :
    after 0x2000 (State.reset |> input 1 0 1 [.ofRat 8] |> input 1 1 1 [.ofRat 5] |> control 1 2 (.ofRat (1 / 2)) |>
        control 1 3 (.ofRat 2)) (fun t => shows t.gain[0].out 1 (1 / 2)) = true := by decide +kernel

/-- V50: level 4, curve 0.5, input 1 V: the gain is 4^0.5. -/
theorem test_tickGain_root :
    after 0x2000 (State.reset |> input 1 0 1 [.ofRat 1] |> control 1 2 (.ofRat 4) |> control 1 3 (.ofRat (1 / 2)))
      (fun t => shows t.gain[0].out 1 2) = true := by decide +kernel

/-- V60, tick 5: a gate of exactly 2.0 V fires; with probability 3 V a draw of 0.2 selects B. -/
theorem test_tickBern_fires :
    after 0x3000 (State.reset |> drawn [.rat (1 / 5), .rat (7 / 10)] |> input 2 0 1 [.ofRat 2] |> input 2 1 1 [.ofRat 3])
      (fun t => shows t.bern[0].outA 1 0 && shows t.bern[0].outB 1 10 && t.bern[0].lastHigh &&
        decide (t.bern[0].oracle.named = [.rat (7 / 10)])) = true := by decide +kernel

/-- V60, tick 7, on a first tick: a draw equal to the probability selects A. -/
theorem test_tickBern_draw_equals_probability :
    after 0x3000 (State.reset |> drawn [.rat (3 / 10)] |> input 2 0 1 [.ofRat 8] |> input 2 1 1 [.ofRat 3])
      (fun t => shows t.bern[0].outA 1 10 && shows t.bern[0].outB 1 0) = true := by decide +kernel

/-- V70: 1.999 V is low and 2.0 V is high. -/
theorem test_tickLogic_threshold :
    after 0x4000 (State.reset |> input 3 0 1 [.ofRat (1999 / 1000)] |> input 3 1 1 [.ofRat 2])
      (fun t => shows t.logic[0].outA 1 0 && shows t.logic[0].outB 1 10) = true := by decide +kernel

/-- V70: the example of R127. -/
theorem test_tickLogic_selector :
    after 0x4000 (State.reset |> input 3 0 1 [.ofRat 5] |> input 3 2 1 [.ofRat (-7 / 2)] |> input 3 3 1 [.ofRat (17 / 4)])
      (fun t => shows t.logic[0].outA 1 10 && shows t.logic[0].max 1 (17 / 4) &&
        shows t.logic[0].min 1 (-7 / 2)) = true := by decide +kernel

/-- V81. -/
theorem test_setMode : after 0x5001 State.reset (fun t => decide (t.osc[0].fmMode = .linear)) = true := by
  decide +kernel

/-- V81: there is one oscillator. -/
theorem test_setMode_no_such_unit :
    after 0x5101 State.reset (fun t => refusedFor .noSuchUnit t && decide (t.osc = State.reset.osc)) = true := by
  decide +kernel

/-- V81: the record of mode 0. -/
theorem test_saveCfg :
    after 0x6000 State.reset
      (fun t => decide (t.emitted = [.json (.obj (.cons "FMmode" (.int 0) .nil))])) = true := by decide +kernel

/-- V80: the integer 1 loads mode 1, with another member beside it. -/
theorem test_loadCfg :
    after 0x7000 { State.reset with record := .json (.obj (.cons "FMmode" (.int 1) (.cons "x" (.str "y") .nil))) }
      (fun t => decide (t.osc[0].fmMode = .linear)) = true := by decide +kernel

/-- V80: none of these loads mode 1. -/
theorem test_parse_default :
    ∀ r ∈ [Record.json (.obj (.cons "FMmode" (.real 1) .nil)), .json (.obj (.cons "FMmode" (.str "1") .nil)),
        .json (.obj (.cons "FMmode" (.bool true) .nil)), .json (.obj (.cons "FMmode" (.int 2) .nil)),
        .json (.obj (.cons "fmmode" (.int 1) .nil)), .json (.arr (.cons (.int 1) .nil)), .json (.int 1),
        .json (.obj .nil), .malformed "x"], parseFmMode r = .exponential := by decide

/-- V82, V93: `RESET` restores the mode and leaves the mark. -/
theorem test_reset :
    after 0x8000 { ran (.setMode 0 .linear) State.reset with refused := true }
      (fun t => t.refused && decide (t.osc[0].fmMode = .exponential)) = true := by decide +kernel

/-! ### Refusals (V20, V21, V50) -/

theorem test_reserved_refuses : after 0x9000 State.reset (refusedFor .reservedEncoding) = true := by decide +kernel

/-- V21: decoding comes before the unit number. -/
theorem test_refusal_order_decode : after 0x1101 State.reset (refusedFor .reservedEncoding) = true := by
  decide +kernel

/-- V21: the channel count comes before the sample rate. -/
theorem test_refusal_order_channels :
    after 0x1000 (State.reset |> input 0 0 17 [] |> control 15 1 (.ofRat 0)) (refusedFor .channelRange) = true := by
  decide +kernel

/-- V21: the level comes before a NaN lane. -/
theorem test_refusal_order_control :
    after 0x2000 (State.reset |> input 1 0 1 [.nan] |> control 1 2 (.ofRat (-1))) (refusedFor .controlRange) = true := by
  decide +kernel

/-- V50: 0 to the power 0 refuses. -/
theorem test_zeroPowZero_refuses :
    after 0x2000 (State.reset |> input 1 0 1 [.ofRat 3] |> control 1 2 (.ofRat 0) |> control 1 3 (.ofRat 0))
      (refusedFor .zeroPowZero) = true := by decide +kernel

/-! ### Functions of the rules -/

/-- V30: a negative step, a negative exact integer, several wraps. -/
theorem test_wrapPhase :
    wrapPhase numRef (.rat 0) (.rat (-3000)) (.rat (1 / 48000)) = .rat (15 / 16) ∧
      wrapPhase numRef (.rat 0) (.rat (-200)) (.rat (1 / 200)) = .rat 0 ∧
      wrapPhase numRef (.rat (3 / 4)) (.rat 1100) (.rat (1 / 400)) = .rat (1 / 2) := by decide +kernel

/-- V31: the row of phase 1/4. -/
theorem test_harmonicSum :
    hsum numRef (.rat (1 / 4)) (.rat 0) (.rat 0) = .rat 1 ∧ hsum numRef (.rat (1 / 4)) (.rat 1) (.rat 1) = .rat (76 / 105) ∧
      hsum numRef (.rat (1 / 4)) (.rat (1 / 2)) (.rat (1 / 2)) = .rat (181 / 210) ∧
      hsum numRef (.rat (3 / 4)) (.rat 1) (.rat 0) = .rat (-(76 / 105)) := by decide +kernel

/-- V31: at phase 1/8 with weights 0 the sum is the sine of an eighth of a turn, half the root of 2. -/
theorem test_harmonicSum_irrational :
    (hsum numRef (.rat (1 / 8)) (.rat 0) (.rat 0)).toReal = Real.sqrt 2 / 2 := by
  have h : hsum numRef (.rat (1 / 8)) (.rat 0) (.rat 0) = sinTurn numRef (.rat (1 / 8)) 1 := by decide +kernel
  rw [h, toReal_sinTurn, ← Real.sin_pi_div_four]
  congr 1
  push_cast [toReal_rat]
  ring

/-- V31: the row of phase 1/8 with both weights 1, `52√2/105 + 1/3`. -/
theorem test_harmonicSum_eighth :
    (hsum numRef (.rat (1 / 8)) (.rat 1) (.rat 1)).toReal = 52 * Real.sqrt 2 / 105 + 1 / 3 := by
  have turn : ∀ i : Nat, (sinTurn numRef (.rat (1 / 8)) i).toReal = Real.sin (i * (Real.pi / 4)) := fun i => by
    rw [toReal_sinTurn]; congr 1; push_cast [toReal_rat]; ring
  have s1 : Real.sin (Real.pi / 4) = Real.sqrt 2 / 2 := Real.sin_pi_div_four
  have s2 : Real.sin (2 * (Real.pi / 4)) = 1 := by rw [← Real.sin_pi_div_two]; ring_nf
  have s3 : Real.sin (3 * (Real.pi / 4)) = Real.sqrt 2 / 2 := by rw [← s1, ← Real.sin_pi_sub]; ring_nf
  have s4 : Real.sin (4 * (Real.pi / 4)) = 0 := by rw [← Real.sin_pi]; ring_nf
  have s5 : Real.sin (5 * (Real.pi / 4)) = -(Real.sqrt 2 / 2) := by rw [← s1, ← Real.sin_add_pi]; ring_nf
  have s6 : Real.sin (6 * (Real.pi / 4)) = -1 := by rw [← s2, ← Real.sin_add_pi]; ring_nf
  have s7 : Real.sin (7 * (Real.pi / 4)) = -(Real.sqrt 2 / 2) := by rw [← s3, ← Real.sin_add_pi]; ring_nf
  have s8 : Real.sin (8 * (Real.pi / 4)) = 0 := by rw [← Real.sin_two_pi]; ring_nf
  norm_num [hsum, harmonicSum, harmonicIndices, harmonicTerm, harmonicWeight, toReal_refAdd, toReal_refMul,
    toReal_refDiv, turn, s1, s2, s3, s4, s5, s6, s7, s8]
  ring

/-- R106, by hand: level 2 with curve 1/2 gives the root of 2. -/
theorem test_pow_irrational : (numRef.pow (.rat 2) (.rat (1 / 2))).toReal = Real.sqrt 2 := by
  rw [numRef_pow, toReal_refPow, Real.sqrt_eq_rpow]
  norm_num

/-- R101, by hand: half an octave up from an irrational base frequency, 440 * 2^(-3/4), is 440 * 2^(-1/4). -/
theorem test_freq_irrational :
    (freq numRef (.mul (.rat 440) (.exp2 (.rat (-3 / 4)))) .exponential (.rat (1 / 2)) (.rat 0) (.rat 0)
      (.rat 48000)).toReal = 440 * (2 : ℝ) ^ (-1 / 4 : ℝ) := by
  have e : (2 : ℝ) ^ (-3 / 4 : ℝ) * (2 : ℝ) ^ (1 / 2 : ℝ) = (2 : ℝ) ^ (-1 / 4 : ℝ) := by
    rw [← Real.rpow_add two_pos]; norm_num
  have b : (2 : ℝ) ^ (-1 / 4 : ℝ) ≤ 1 := Real.rpow_le_one_of_one_le_of_nonpos one_le_two (by norm_num)
  have p : 0 < (2 : ℝ) ^ (-1 / 4 : ℝ) := Real.rpow_pos_of_pos two_pos _
  simp only [freq, freqExpRaw, freqBound, Config.freqDiv, toReal_clamp, numRef_mul, numRef_exp2, numRef_add, numRef_div,
    toReal_refMul, toReal_refExp2, toReal_refAdd, toReal_refDiv, toReal_mul, toReal_exp2, toReal_rat]
  norm_num [mul_assoc]
  rw [show (-(3 / 4) : ℝ) = -3 / 4 by norm_num, show (-(1 / 4) : ℝ) = -1 / 4 by norm_num, e]
  rw [max_eq_left (by positivity), min_eq_left (by linarith)]

/-- V40: rows of both modes. -/
theorem test_freq :
    freq numRef (.rat 100) .exponential (.rat 1) (.rat (-3)) (.rat 1) (.rat 48000) = .rat 25 ∧
      freq numRef (.rat 100) .exponential (.rat 5) (.rat 0) (.rat 0) (.rat 48000) = .rat 3000 ∧
      freq numRef (.rat 100) .linear (.rat 2) (.rat (1 / 2)) (.rat (-1)) (.rat 48000) = .rat 350 ∧
      freq numRef (.rat 100) .linear (.rat 0) (.rat (-40)) (.rat 1) (.rat 48000) = .rat (-3000) := by decide +kernel

/-- R78, R79: assembly lines with a comment, a hexadecimal number, a mode mnemonic, an out-of-range unit. -/
theorem test_assemble :
    assembleLine .default "  SETMODE 0x0, 1 ; mode".toList = .ok [.setMode 0 .linear] ∧
      assembleLine .default "SETMODE.LTZ 3".toList = .ok [.setMode 3 .linear] ∧
      assembleLine .default "TICK_OSC 16".toList = .error .outOfRange ∧
      assembleLine .default "TICK_ALL".toList = .ok [.tickOsc 0, .tickGain 0, .tickBern 0, .tickLogic 0] := by
  decide +kernel

/-! ### Witnesses: for each obligation with hypotheses, values that meet them together, at the ends of their ranges -/

/-- A command with the neutral bus. -/
def sent (w : Word) : Delivery := ⟨w, State.reset.bus, State.reset.record⟩

theorem witness_DecodeReadsBackEncode : (Instr.setMode 15 .linear).wellFormed = true ∧ Instr.reset.wellFormed = true := by
  decide

theorem witness_EncodeReadsBackDecode : decode 0x5F01#16 = .ok (.setMode 15 .linear) := by decide

theorem witness_DecoderFollowsOpcodeMap :
    (rowSetMode ∈ opcodeMap ∧ (0x5F01#16 &&& rowSetMode.mask) = rowSetMode.pattern) ∧
      (∀ r ∈ opcodeMap, (0x8001#16 &&& r.mask) ≠ r.pattern) ∧ ∀ r ∈ opcodeMap, (0x9000#16 &&& r.mask) ≠ r.pattern := by
  decide +kernel

theorem witness_StepRunsDecodedCommand :
    (State.reset.withFetchWord 16 0x8000).pending = [sent 0x8000#16] ∧ decode (sent 0x8000#16).word = .ok .reset :=
  ⟨rfl, by decide⟩

theorem witness_ReservedWordRefuses :
    (State.reset.withFetchWord 16 0x9000).pending = [sent 0x9000#16] ∧
      ∀ r ∈ opcodeMap, ((sent 0x9000#16).word &&& r.mask) ≠ r.pattern := ⟨rfl, by decide +kernel⟩

theorem witness_IdleHoldsState : State.reset.pending = [] := rfl

/-- The state after the reserved word 0x9000, from reset. -/
def refusedState : State := State.reset.refuse .reservedEncoding 0x9000#16

theorem witness_RefusedStepChangesNothingElse :
    (State.reset.withFetchWord 16 0x9000).pending = [sent 0x9000#16] ∧
      step (State.reset.withFetchWord 16 0x9000) = .next refusedState ∧
      refusedState.report = some ⟨.reservedEncoding, 0x9000#16⟩ := ⟨rfl, by rfl, rfl⟩

theorem witness_RefusalMarkIsSticky :
    refusedState.refused = true ∧ step refusedState = .next refusedState ∧ step (State.reset.withFetchWord 16 0x9000) = .next refusedState ∧
      step (State.reset.withFetchWord 16 0x0000) = .next State.reset := ⟨rfl, by rfl, by rfl, by rfl⟩

theorem witness_UnknownUnitRefuses :
    State.reset.params.nOsc ≤ 1 ∧ State.reset.params.nGain ≤ 1 ∧ State.reset.params.nBern ≤ 1 ∧
      State.reset.params.nLogic ≤ 1 ∧ (counts 15 State.reset).params.nLogic ≤ 15 := by decide

theorem witness_NopChangesNothing :
    (State.reset.withFetchWord 16 0x0100).pending = [sent 0x0100#16] ∧ (sent 0x0100#16).word.toNat / 4096 = 0 ∧
      (sent 0x0100#16).word ≠ 0x0000#16 := ⟨rfl, by decide, by decide⟩

theorem witness_ResetCommandRestoresConstruction :
    (State.reset.withFetchWord 16 0x8001).pending = [sent 0x8001#16] ∧ (sent 0x8001#16).word.toNat / 4096 = 8 ∧
      (sent 0x8001#16).word ≠ 0x8000#16 := ⟨rfl, by decide, by decide⟩

/-- Also the witness of `SaveCfgEmitsModeRecord`, `LoadCfgWritesParsedMode` and the first premise of `ConfigRoundTrip`. -/
theorem witness_SetModeWritesModeOnly :
    ((State.reset.withFetchWord 16 0x5002).pending = [sent 0x5002#16] ∧ (sent 0x5002#16).word.toNat / 4096 = 5 ∧
        ((sent 0x5002#16).word &&& 0x00FE#16) ≠ 0#16) ∧
      State.reset.params.nOsc ≤ 1 ∧ (0 : Fin 16).val < State.reset.params.nOsc ∧
      (15 : Fin 16).val < (counts 16 State.reset).params.nOsc :=
  ⟨⟨rfl, by decide, by decide⟩, by decide, by decide, by decide⟩

theorem witness_ConfigRoundTrip :
    (∃ r, r = .json (.obj (.cons "FMmode" (.int 1) .nil)) ∧
      (ran (.saveCfg 0) (ran (.setMode 0 .linear) State.reset)).emitted = State.reset.emitted ++ [r] ∧
      ({ State.reset with record := r } : State).params = State.reset.params) ∧
    State.reset.record = .json (.obj .nil) ∧ ∀ e ∈ JsonMembers.nil.toList, e.1 ≠ "FMmode" :=
  ⟨⟨_, rfl, by decide +kernel, rfl⟩, rfl, by decide⟩

theorem witness_ParseFmModeRule :
    (∃ ms : JsonMembers, Record.json (.obj (.cons "FMmode" (.int 1) .nil)) = .json (.obj ms) ∧
        ("FMmode", Json.int 1) ∈ ms.toList) ∧
      ¬∃ ms : JsonMembers, Record.malformed "x" = .json (.obj ms) ∧ ("FMmode", Json.int 1) ∈ ms.toList :=
  ⟨⟨_, rfl, by decide⟩, fun ⟨_, h, _⟩ => nomatch h⟩

theorem witness_LaneResolution :
    (InPort.driven 0 []).ch = 0 ∧ (InPort.driven 1 []).ch = 1 ∧
      (1 < (InPort.driven 16 []).ch ∧ ((15 : Fin 16).val : Int) < (InPort.driven 16 []).ch) ∧
      1 < (InPort.driven 2 []).ch ∧ (InPort.driven 2 []).ch ≤ ((2 : Fin 16).val : Int) ∧
      0 ≤ (InPort.driven 0 []).ch ∧ 0 ≤ (InPort.driven 16 []).ch := by decide

theorem witness_ChannelRangeRefuses :
    (∃ p ∈ [(State.reset |> input 0 0 17 []).bus.osc[(0 : Fin 16)].pitch,
        (State.reset |> input 0 0 17 []).bus.osc[(0 : Fin 16)].fm], p.ch < 0 ∨ 16 < p.ch) ∧
    (∃ p ∈ [(State.reset |> input 1 1 (-1) []).bus.gain[(0 : Fin 16)].input,
        (State.reset |> input 1 1 (-1) []).bus.gain[(0 : Fin 16)].cv], p.ch < 0 ∨ 16 < p.ch) ∧
    (∃ p ∈ [(State.reset |> input 2 0 17 []).bus.bern[(0 : Fin 16)].gate,
        (State.reset |> input 2 0 17 []).bus.bern[(0 : Fin 16)].prob], p.ch < 0 ∨ 16 < p.ch) ∧
    ∃ p ∈ [(State.reset |> input 3 3 17 []).bus.logic[(0 : Fin 16)].a,
        (State.reset |> input 3 3 17 []).bus.logic[(0 : Fin 16)].b,
        (State.reset |> input 3 3 17 []).bus.logic[(0 : Fin 16)].x,
        (State.reset |> input 3 3 17 []).bus.logic[(0 : Fin 16)].y], p.ch < 0 ∨ 16 < p.ch := by decide +kernel

/-- The declared counts of the ports a unit 0 reads. -/
abbrev oscPorts (s : State) : List InPort := [s.bus.osc[(0 : Fin 16)].pitch, s.bus.osc[(0 : Fin 16)].fm]
abbrev gainPorts (s : State) : List InPort := [s.bus.gain[(0 : Fin 16)].input, s.bus.gain[(0 : Fin 16)].cv]
abbrev bernPorts (s : State) : List InPort := [s.bus.bern[(0 : Fin 16)].gate, s.bus.bern[(0 : Fin 16)].prob]
abbrev logicPorts (s : State) : List InPort :=
  [s.bus.logic[(0 : Fin 16)].a, s.bus.logic[(0 : Fin 16)].b, s.bus.logic[(0 : Fin 16)].x, s.bus.logic[(0 : Fin 16)].y]

/-- Their counts are in range. -/
abbrev InRange (ps : List InPort) : Prop := ∀ p ∈ ps, 0 ≤ p.ch ∧ p.ch ≤ 16

theorem holds_of_eq {v : Value} {a : Rat} {P : Number → Prop} (e : v = .ofRat a) (h : P (.rat a)) :
    ∀ x, v = .fin x → P x := by
  intro q hq
  rw [e] at hq
  cases hq
  exact h

def rateZero : State := State.reset |> input 0 0 16 [] |> control 15 1 (.ofRat 0)
def depthHigh : State := State.reset |> control 0 2 (.ofRat (11 / 10))
def levelNegative : State := State.reset |> input 1 0 16 [] |> control 1 2 (.ofRat (-1 / 10))
def curveNegative : State := State.reset |> control 1 3 (.ofRat (-1 / 10))

/-- The third clause's premise is met by the reset state: `witness_TickOscResult`. -/
theorem witness_ControlRangeRefuses :
    (InRange (oscPorts rateZero) ∧ ∃ sr, rateZero.bus.sampleRate = .fin sr ∧ sr.toReal ≤ 0) ∧
    (InRange (oscPorts depthHigh) ∧
      ∃ d, depthHigh.bus.osc[(0 : Fin 16)].depth = .fin d ∧ (d.toReal < -1 ∨ 1 < d.toReal)) ∧
    (InRange (gainPorts levelNegative) ∧
      ∃ l, levelNegative.bus.gain[(0 : Fin 16)].level = .fin l ∧ l.toReal < 0) ∧
    InRange (gainPorts curveNegative) ∧ ∃ e, curveNegative.bus.gain[(0 : Fin 16)].curve = .fin e ∧ e.toReal < 0 :=
  ⟨⟨by decide +kernel, .rat 0, by rfl, by norm_num⟩, ⟨by decide +kernel, .rat (11 / 10), by rfl, by norm_num⟩,
    ⟨by decide +kernel, .rat (-1 / 10), by rfl, by norm_num⟩, by decide +kernel, .rat (-1 / 10), by rfl, by norm_num⟩

/-- Curve 0 with level 0, and curve 0 with a CV factor base of 0 on lane 0 (V50). -/
def zeroLevel : State := State.reset |> control 1 2 (.ofRat 0) |> control 1 3 (.ofRat 0)
def zeroCv : State := State.reset |> control 1 3 (.ofRat 0) |> input 1 0 1 [.ofRat 4] |> input 1 1 1 [.ofRat (-5)]

theorem witness_ZeroPowZeroRefuses :
    (InRange (gainPorts zeroLevel) ∧ zeroLevel.bus.gain[(0 : Fin 16)].curve = .ofRat 0 ∧ (Number.rat 0).toReal = 0 ∧
      (∀ l, zeroLevel.bus.gain[(0 : Fin 16)].level = .fin l → 0 ≤ l.toReal) ∧
      zeroLevel.bus.gain[(0 : Fin 16)].level = .ofRat 0) ∧
    InRange (gainPorts zeroCv) ∧ zeroCv.bus.gain[(0 : Fin 16)].curve = .ofRat 0 ∧
      (∀ l, zeroCv.bus.gain[(0 : Fin 16)].level = .fin l → 0 ≤ l.toReal) ∧
      (1 ≤ zeroCv.bus.gain[(0 : Fin 16)].cv.ch ∧ ((0 : Fin 16).val : Int) < zeroCv.bus.gain[(0 : Fin 16)].input.ch ∧
        zeroCv.gainCv 0 0 = .ofRat (-5) ∧ zeroCv.bus.gain[(0 : Fin 16)].offset = .ofRat 0) ∧
      (clamp (zeroCv.params.numerics.div (zeroCv.params.numerics.add (.rat (-5)) (.rat 0)) (.rat 10)) (.rat 0)
        (.rat 1)).toReal = 0 := by
  refine ⟨⟨by decide +kernel, by decide +kernel, by norm_num, holds_of_eq (a := 0) (by rfl) (by norm_num),
    by decide +kernel⟩, by decide +kernel, by decide +kernel, holds_of_eq (a := 1) (by rfl) (by norm_num),
    by decide +kernel, ?_⟩
  show (clamp (numRef.div (numRef.add (.rat (-5)) (.rat 0)) (.rat 10)) (.rat 0) (.rat 1)).toReal = 0
  norm_num [toReal_clamp, toReal_refDiv, toReal_refAdd]

/-- A control that is no number, and a lane that is infinite. -/
def nanOdd : State := State.reset |> control 0 3 .nan
def infPitch : State := State.reset |> input 0 0 16 [.posInf]

theorem witness_NonFiniteOscRefuses :
    (InRange (oscPorts nanOdd) ∧ (∀ sr, nanOdd.bus.sampleRate = .fin sr → 0 < sr.toReal) ∧
      (∀ d, nanOdd.bus.osc[(0 : Fin 16)].depth = .fin d → -1 ≤ d.toReal ∧ d.toReal ≤ 1) ∧
      nanOdd.bus.osc[(0 : Fin 16)].odd.isFinite = false) ∧
    InRange (oscPorts infPitch) ∧ (∀ sr, infPitch.bus.sampleRate = .fin sr → 0 < sr.toReal) ∧
      (∀ d, infPitch.bus.osc[(0 : Fin 16)].depth = .fin d → -1 ≤ d.toReal ∧ d.toReal ≤ 1) ∧
      (0 : Fin 16).val < max 1 infPitch.bus.osc[(0 : Fin 16)].pitch.ch.toNat ∧ (infPitch.oscPitch 0 0).isFinite = false :=
  ⟨⟨by decide +kernel, holds_of_eq (a := 48000) (by rfl) (by norm_num),
      holds_of_eq (a := 0) (by rfl) (by norm_num), by decide +kernel⟩,
    by decide +kernel, holds_of_eq (a := 48000) (by rfl) (by norm_num),
    holds_of_eq (a := 0) (by rfl) (by norm_num), by decide +kernel⟩

/-- An offset that is infinite; a signal lane that is no number; a lane of a connected CV that is no number. -/
def infOffset : State := State.reset |> control 1 4 .negInf
def nanSignal : State := State.reset |> input 1 0 16 [.nan]
def nanCv : State := State.reset |> input 1 0 1 [.ofRat 1] |> input 1 1 1 [.nan]

/-- Level and curve are 1 in all three, so the premise about curve 0 is met by having another curve. -/
theorem witness_NonFiniteGainRefuses :
    (∀ s ∈ [infOffset, nanSignal, nanCv], InRange (gainPorts s) ∧ s.bus.gain[(0 : Fin 16)].level = .ofRat 1 ∧
      s.bus.gain[(0 : Fin 16)].curve = .ofRat 1) ∧
    infOffset.bus.gain[(0 : Fin 16)].offset.isFinite = false ∧
    (((0 : Fin 16).val : Int) < nanSignal.bus.gain[(0 : Fin 16)].input.ch ∧ (nanSignal.gainIn 0 0).isFinite = false) ∧
    ((0 : Fin 16).val : Int) < nanCv.bus.gain[(0 : Fin 16)].input.ch ∧ 1 ≤ nanCv.bus.gain[(0 : Fin 16)].cv.ch ∧
      (nanCv.gainCv 0 0).isFinite = false := by decide +kernel

/-- A gate that is no number; a gate of exactly 2 V, which fires from reset, with a probability that is no number; an
infinite selector input. -/
def nanGate : State := State.reset |> input 2 0 16 [.nan]
def nanProb : State := State.reset |> input 2 0 1 [.ofRat 2] |> input 2 1 1 [.nan]
def infSelector : State := State.reset |> input 3 2 16 [.posInf]

theorem witness_NonFiniteMonoRefuses :
    (InRange (bernPorts nanGate) ∧ nanGate.bus.bern[(0 : Fin 16)].gate.readMono.isFinite = false) ∧
    (InRange (bernPorts nanProb) ∧ nanProb.bernFires 0 = true ∧ 1 ≤ nanProb.bus.bern[(0 : Fin 16)].prob.ch ∧
      nanProb.bus.bern[(0 : Fin 16)].prob.readMono.isFinite = false) ∧
    InRange (logicPorts infSelector) ∧
      infSelector.bus.logic[(0 : Fin 16)].x.readMono.isFinite = false := by decide +kernel

/-- An oscillator with sixteen lanes at depth 1, and one with the default single lane. -/
def osc16 : State := State.reset |> input 0 0 16 [.ofRat 1] |> input 0 1 1 [.ofRat 1] |> control 0 2 (.ofRat 1)

theorem oscReady_of {s : State} (hc : s.oscChannelsOk 0 = true) (hr : ∃ q, s.bus.sampleRate = .fin q ∧ 0 < q.toReal)
    (hd : ∃ q, s.bus.osc[(0 : Fin 16)].depth = .fin q ∧ -1 ≤ q.toReal ∧ q.toReal ≤ 1) (hf : s.oscReadsFinite 0 = true) :
    OscReady s 0 := by
  simp only [State.oscChannelsOk, Bool.and_eq_true, chOk_iff] at hc
  simp only [State.oscReadsFinite, Bool.and_eq_true, isFinite_iff, decide_eq_true_eq] at hf
  obtain ⟨⟨⟨⟨⟨⟨⟨-, ho⟩, he⟩, ht⟩, -⟩, hb⟩, hs⟩, hl⟩ := hf
  exact ⟨hc.1, hc.2, hr, hd, ho, he, ht, hb, hs, hl⟩

theorem witness_TickOscResult :
    (OscReady osc16 0 ∧ (15 : Fin 16).val < max 1 osc16.bus.osc[(0 : Fin 16)].pitch.ch.toNat) ∧
      OscReady State.reset 0 ∧ max 1 State.reset.bus.osc[(0 : Fin 16)].pitch.ch.toNat ≤ (1 : Fin 16).val :=
  ⟨⟨oscReady_of (by decide +kernel) ⟨.rat 48000, by rfl, by norm_num⟩ ⟨.rat 1, by rfl, by norm_num⟩
      (by decide +kernel), by decide +kernel⟩,
    oscReady_of (by decide +kernel) ⟨.rat 48000, by rfl, by norm_num⟩ ⟨.rat 0, by rfl, by norm_num⟩
      (by decide +kernel), by decide +kernel⟩

/-- A base frequency and a phase that are irrational meet the premises too. -/
theorem witness_TickOscResult_irrational :
    OscReady { State.reset with params := { Params.default with
      baseFreq := .fin (.mul (.rat 440) (.exp2 (.rat (-3 / 4)))),
      phaseInit := Vector.replicate 16 (Vector.replicate 16 (.sub .pi (.rat 3))) } } 0 :=
  oscReady_of (by decide +kernel) ⟨.rat 48000, by rfl, by norm_num⟩ ⟨.rat 0, by rfl, by norm_num⟩ (by decide +kernel)

theorem witness_FrequencyMapperProperties :
    ((Number.rat 0).toReal = 0 ∧ 0 < (Number.rat 3000).toReal ∧
        (Number.rat 3000).toReal ≤ (Number.rat 48000).toReal / 16 ∧ (Number.rat 0).toReal * (Number.rat 1).toReal = 0) ∧
      (Number.rat (-1)).toReal ≤ (Number.rat 2).toReal ∧ 0 ≤ ((numOf .ref).div (.rat 48000) (.rat 16)).toReal ∧
      ((Number.rat 2).toReal = (Number.rat 1).toReal + 1 ∧
        (Number.rat 100).toReal * (2 : ℝ) ^ ((Number.rat 2).toReal + (Number.rat 0).toReal * (Number.rat 0).toReal) ≤
          (Number.rat 6400).toReal / 16) := by
  refine ⟨by norm_num, by norm_num, ?_, by norm_num, ?_⟩
  · show 0 ≤ (refDiv (.rat 48000) (.rat 16)).toReal
    norm_num [toReal_refDiv]
  · norm_num

theorem witness_Exp2NamedProperties :
    (Number.rat 0).toReal = 0 ∧ (Number.rat (-20)).toReal ≤ (Number.rat 5).toReal := by norm_num

theorem witness_ReferenceArithmeticIsExact :
    (Number.rat 3).toReal ≠ 0 ∧ 0 ≤ (Number.rat 0).toReal ∧ 0 ≤ (Number.rat 3).toReal ∧
      ¬((Number.rat 0).toReal = 0 ∧ (Number.rat 3).toReal = 0) := by norm_num

/-- Two writings of 2, and two of 0. -/
theorem witness_OperationsAreFunctionsOfReals :
    (Number.rat 2).toReal = (Number.exp2 (.rat 1)).toReal ∧ Number.rat 2 ≠ .exp2 (.rat 1) ∧
      (Number.rat 0).toReal = (Number.sin .pi).toReal ∧ Number.rat 0 ≠ .sin .pi := by
  refine ⟨?_, by decide, ?_, by decide⟩ <;> simp

theorem witness_HarmonicSumBound :
    (0 ≤ (Number.rat 0).toReal ∧ (Number.rat 0).toReal ≤ 1 ∧ 0 ≤ (Number.rat 1).toReal ∧ (Number.rat 1).toReal ≤ 1) ∧
      |(Number.rat (-(10 * 280 / 761))).toReal| ≤ 10 * 280 / 761 := by
  norm_num [abs_of_neg]

/-- Also the witness of `ShortCircuitOfZeroWeights`, whose premise is that the weights are 0. -/
theorem witness_HarmonicSumOdd : (Number.rat (7 / 8)).toReal = 1 - (Number.rat (1 / 8)).toReal ∧ (Number.rat 0).toReal = 0 := by
  norm_num

theorem witness_StaticPhase :
    (0 ≤ (Number.rat 0).toReal ∧ (Number.rat 0).toReal < 1 ∧
        ((Number.rat 0).toReal = 0 ∨ (Number.rat 1).toReal = 0)) ∧
      (Number.rat 0).toReal + (Number.rat (-200)).toReal * (Number.rat (1 / 200)).toReal = (-1 : Int) ∧
      (Number.rat (9 / 4)).toReal = (Number.rat (1 / 4)).toReal + (2 : Int) := by
  norm_num

/-- Two lanes at pitches `x` and `y`. -/
def twoLanes (x y : Rat) : State := State.reset |> input 0 0 2 [.ofRat x, .ofRat y]

theorem twoLanes_ready (x y : Rat) (hc : (twoLanes x y).oscChannelsOk 0 = true)
    (hf : (twoLanes x y).oscReadsFinite 0 = true) : OscReady (twoLanes x y) 0 :=
  oscReady_of hc ⟨.rat 48000, by rfl, by norm_num⟩ ⟨.rat 0, by rfl, by norm_num⟩ hf

/-- Lane 0 of one state and lane 1 of the other agree; their neighbours differ. -/
theorem witness_LanesAreIndependent :
    OscReady (twoLanes 1 2) 0 ∧ OscReady (twoLanes 3 1) 0 ∧ (twoLanes 3 1).oscPitch 0 1 = (twoLanes 1 2).oscPitch 0 0 ∧
      (twoLanes 3 1).oscFm 0 1 = (twoLanes 1 2).oscFm 0 0 ∧ (twoLanes 3 1).params = (twoLanes 1 2).params ∧
      (twoLanes 3 1).osc[(0 : Fin 16)].phase[(1 : Fin 16)] = (twoLanes 1 2).osc[(0 : Fin 16)].phase[(0 : Fin 16)] ∧
      (twoLanes 3 1).osc[(0 : Fin 16)].fmMode = (twoLanes 1 2).osc[(0 : Fin 16)].fmMode ∧
      (twoLanes 3 1).bus.osc[(0 : Fin 16)].depth = (twoLanes 1 2).bus.osc[(0 : Fin 16)].depth ∧
      (twoLanes 3 1).bus.osc[(0 : Fin 16)].odd = (twoLanes 1 2).bus.osc[(0 : Fin 16)].odd ∧
      (twoLanes 3 1).bus.osc[(0 : Fin 16)].even = (twoLanes 1 2).bus.osc[(0 : Fin 16)].even ∧
      (twoLanes 3 1).bus.sampleTime = (twoLanes 1 2).bus.sampleTime ∧
      (twoLanes 3 1).bus.sampleRate = (twoLanes 1 2).bus.sampleRate ∧
      (0 : Fin 16).val < (twoLanes 1 2).bus.osc[(0 : Fin 16)].lanes ∧
      (1 : Fin 16).val < (twoLanes 3 1).bus.osc[(0 : Fin 16)].lanes :=
  ⟨twoLanes_ready 1 2 (by decide +kernel) (by decide +kernel),
    twoLanes_ready 3 1 (by decide +kernel) (by decide +kernel), by decide +kernel⟩

theorem witness_GroupsCoverActiveLanes : (16 : Nat) ≤ 16 ∧ 3 < groupsProcessed 16 ∧ groupsProcessed 5 ≤ 2 := by decide

theorem gainReady_of {s : State} (hc : s.gainChannelsOk 0 = true) {l e : Number}
    (hl : s.bus.gain[(0 : Fin 16)].level = .fin l) (he : s.bus.gain[(0 : Fin 16)].curve = .fin e) (hl0 : 0 ≤ l.toReal)
    (he0 : 0 < e.toReal) (hf : s.gainReadsFinite 0 = true) : GainReady s 0 := by
  simp only [State.gainChannelsOk, Bool.and_eq_true, chOk_iff] at hc
  rw [State.gainReadsFinite, Bool.and_eq_true, Bool.and_eq_true, decide_eq_true_eq] at hf
  refine ⟨hc.1, hc.2, isFinite_iff.mp hf.1.2, l, e, hl, he, hl0, he0.le, fun h => absurd h.2 he0.ne', fun c hcn => ?_⟩
  exact ⟨isFinite_iff.mp (hf.2 c hcn).1, fun h =>
    ⟨isFinite_iff.mp ((hf.2 c hcn).2 (decide_eq_true h)), fun h => absurd h.1 he0.ne'⟩⟩

/-- Sixteen signal lanes with one CV channel, the output not connected. -/
def gain16 : State :=
  let s := State.reset |> input 1 0 16 [.ofRat 8] |> input 1 1 1 [.ofRat 5]
  { s with bus := s.bus.setOutConn s.params 1 0 0 false }

/-- Also the witness of `UnconnectedGainOutputUnreadable`. -/
theorem witness_TickGainResult :
    GainReady gain16 0 ∧ (0 : Fin 16).val < gain16.params.nGain ∧
      ((15 : Fin 16).val : Int) < gain16.bus.gain[(0 : Fin 16)].input.ch ∧
      gain16.bus.gain[(0 : Fin 16)].outConn = false ∧
      GainReady State.reset 0 ∧ State.reset.bus.gain[(0 : Fin 16)].input.ch ≤ ((0 : Fin 16).val : Int) :=
  ⟨gainReady_of (l := .rat 1) (e := .rat 1) (by decide +kernel) (by rfl) (by rfl) (by norm_num) (by norm_num)
      (by decide +kernel), by decide +kernel, by decide +kernel, by decide +kernel,
    gainReady_of (l := .rat 1) (e := .rat 1) (by decide +kernel) (by rfl) (by rfl) (by norm_num) (by norm_num)
      (by decide +kernel), by decide +kernel⟩

/-- Curve 0 runs where no base is 0 (V50): the other side of the premise. -/
theorem witness_GainReady_curve_zero : GainReady (State.reset |> control 1 3 (.ofRat 0)) 0 :=
  ⟨by decide +kernel, by decide +kernel, ⟨.rat 0, by rfl⟩, .rat 1, .rat 0, by rfl, by rfl, by norm_num, by norm_num,
    fun h => absurd h.1 (by norm_num), fun c hc => absurd hc (Nat.not_lt_zero c.val)⟩

theorem witness_GainCornerCases :
    (0 ≤ (Number.rat 0).toReal ∧ 0 < (Number.rat 2).toReal) ∧ (Number.rat 1).toReal = 1 ∧
      0 < (cvBase numRef (.rat 5) (.rat 0)).toReal ∧ (Number.rat (-8)).toReal + (Number.rat 0).toReal ≤ 0 ∧
      10 ≤ (Number.rat 5).toReal + (Number.rat 5).toReal ∧
      10 < (Number.rat 11).toReal * (numRef.pow (.rat 1) (.rat 1)).toReal * (Number.rat 1).toReal ∧
      (Number.rat (-11)).toReal * (numRef.pow (.rat 1) (.rat 1)).toReal * (Number.rat 1).toReal < -10 := by
  norm_num [cvBase, Config.cvScale, toReal_clamp, toReal_refDiv, toReal_refAdd, toReal_refPow]

theorem bernReady_of {s : State} (hc : s.bernChannelsOk 0 = true) {v q : Number}
    (hg : s.bus.bern[(0 : Fin 16)].gate.readMono = .fin v)
    (hp : s.bus.bern[(0 : Fin 16)].prob.readMono = .fin q) : BernReady s 0 := by
  simp only [State.bernChannelsOk, Bool.and_eq_true, chOk_iff] at hc
  exact ⟨hc.1, hc.2, ⟨v, hg⟩, fun _ _ => ⟨q, hp⟩⟩

/-- A gate of exactly 2 V with probability 3 V, and the reset bus, whose gate is low. -/
def gateHigh : State := State.reset |> input 2 0 1 [.ofRat 2] |> input 2 1 1 [.ofRat 3]

/-- The same gate where it was high on the tick before: no firing. -/
def gateHeld : State := gateHigh.setBern 0 { gateHigh.bern[0] with lastHigh := true }

theorem witness_TickBernResult :
    (BernReady gateHigh 0 ∧ gateHigh.bus.bern[(0 : Fin 16)].gate.readMono = .ofRat 2 ∧ 2 ≤ (Number.rat 2).toReal ∧
        gateHigh.bern[(0 : Fin 16)].lastHigh = false ∧ 1 ≤ gateHigh.bus.bern[(0 : Fin 16)].prob.ch) ∧
      (BernReady gateHeld 0 ∧ gateHeld.bus.bern[(0 : Fin 16)].gate.readMono = .ofRat 2 ∧
        gateHeld.bern[(0 : Fin 16)].lastHigh = true) ∧
      BernReady State.reset 0 ∧ State.reset.bus.bern[(0 : Fin 16)].gate.readMono = .ofRat 0 ∧ (Number.rat 0).toReal < 2 :=
  ⟨⟨bernReady_of (v := .rat 2) (q := .rat 3) (by decide +kernel) (by rfl) (by rfl), by rfl, by norm_num, by rfl,
      by decide +kernel⟩,
    ⟨bernReady_of (v := .rat 2) (q := .rat 3) (by decide +kernel) (by rfl) (by rfl), by rfl, by rfl⟩,
    bernReady_of (v := .rat 0) (q := .rat 0) (by decide +kernel) (by rfl) (by rfl), by rfl, by norm_num⟩

theorem witness_DrawTakesNextElement :
    (∃ rest, (⟨[.rat 0, .rat (999 / 1000)], 0⟩ : Oracle).named = .rat 0 :: rest) ∧
      (∀ r ∈ (⟨[.rat 0, .rat (999 / 1000)], 0⟩ : Oracle).named, 0 ≤ r.toReal ∧ r.toReal < 1) ∧
      State.reset.bern[(0 : Fin 16)].oracle.named = [] := by
  refine ⟨⟨_, rfl⟩, ?_, by rfl⟩
  norm_num

/-- Also the witness of `ProbabilityClampUnobservable`. -/
theorem witness_ProbabilityExtremes :
    (0 ≤ (Number.rat 0).toReal ∧ (Number.rat 0).toReal < 1) ∧
      (0 ≤ (Number.rat (999 / 1000)).toReal ∧ (Number.rat (999 / 1000)).toReal < 1) ∧ (Number.rat 0).toReal ≤ 0 ∧
      10 ≤ (Number.rat 10).toReal := by norm_num

theorem witness_SecondBernTickHolds : ∃ t, exec (.tickBern 0) gateHigh = .next t ∧ t.refused = false :=
  ⟨_, exec_tickBern_ready (k := 0) (by decide) witness_TickBernResult.1.1, rfl⟩

theorem logicReady_of {s : State} (hc : s.logicChannelsOk 0 = true) (hf : s.logicReadsFinite 0 = true) :
    LogicReady s 0 := by
  simp only [State.logicChannelsOk, Bool.and_eq_true, chOk_iff] at hc
  simp only [State.logicReadsFinite, Bool.and_eq_true, isFinite_iff] at hf
  exact ⟨⟨hc.1.1.1, hf.1.1.1⟩, ⟨hc.1.1.2, hf.1.1.2⟩, ⟨hc.1.2, hf.1.2⟩, ⟨hc.2, hf.2⟩⟩

/-- Logic inputs `a` and `b`, the selector's at 1 V and 2 V. -/
def gates (a b : Rat) : State :=
  State.reset |> input 3 0 1 [.ofRat a] |> input 3 1 1 [.ofRat b] |> input 3 2 1 [.ofRat 1] |> input 3 3 1 [.ofRat 2]

/-- The four rows of the truth table, at the threshold and just below it. -/
theorem witness_TickLogicResult :
    (LogicReady (gates (1999 / 1000) 2) 0 ∧
      (gates (1999 / 1000) 2).bus.logic[(0 : Fin 16)].a.readMono = .ofRat (1999 / 1000) ∧
      (gates (1999 / 1000) 2).bus.logic[(0 : Fin 16)].b.readMono = .ofRat 2 ∧
      (gates (1999 / 1000) 2).bus.logic[(0 : Fin 16)].x.readMono = .ofRat 1 ∧
      (gates (1999 / 1000) 2).bus.logic[(0 : Fin 16)].y.readMono = .ofRat 2) ∧
    LogicReady (gates 2 (1999 / 1000)) 0 ∧ LogicReady (gates 2 2) 0 ∧ LogicReady (gates (1999 / 1000) (1999 / 1000)) 0 ∧
    (Number.rat (1999 / 1000)).toReal < 2 ∧ 2 ≤ (Number.rat 2).toReal :=
  ⟨⟨logicReady_of (by decide +kernel) (by decide +kernel), by rfl, by rfl, by rfl, by rfl⟩,
    logicReady_of (by decide +kernel) (by decide +kernel), logicReady_of (by decide +kernel) (by decide +kernel),
    logicReady_of (by decide +kernel) (by decide +kernel), by norm_num, by norm_num⟩

theorem witness_LogicTickIsIdempotent : ∃ t, exec (.tickLogic 0) (gates 2 2) = .next t ∧ t.refused = false :=
  ⟨_, exec_tickLogic_ready (k := 0) (by decide) witness_TickLogicResult.2.2.1, rfl⟩

theorem witness_OnlyModeCommandsWriteMode :
    ∃ t, exec (.setMode 0 .linear) State.reset = .next t ∧
      t.osc[(0 : Fin 16)].fmMode ≠ State.reset.osc[(0 : Fin 16)].fmMode := ⟨_, by rfl, by decide +kernel⟩

/-- The unit's own tick writes each of the registers named. -/
theorem witness_OnlyOwningTickWrites :
    (∃ t, exec (.tickOsc 0) State.reset = .next t ∧
      t.osc[(0 : Fin 16)].out ≠ State.reset.osc[(0 : Fin 16)].out) ∧
    (∃ t, exec (.tickGain 0) gain16 = .next t ∧ t.gain[(0 : Fin 16)].out ≠ gain16.gain[(0 : Fin 16)].out) ∧
    (∃ t, exec (.tickBern 0) (drawn [.rat (1 / 5)] gateHigh) = .next t ∧
      t.bern[(0 : Fin 16)].lastHigh ≠ (drawn [.rat (1 / 5)] gateHigh).bern[(0 : Fin 16)].lastHigh ∧
      t.bern[(0 : Fin 16)].latch ≠ (drawn [.rat (1 / 5)] gateHigh).bern[(0 : Fin 16)].latch ∧
      t.bern[(0 : Fin 16)].oracle ≠ (drawn [.rat (1 / 5)] gateHigh).bern[(0 : Fin 16)].oracle) ∧
    ∃ t, exec (.tickLogic 0) (gates 2 2) = .next t ∧ t.logic[(0 : Fin 16)] ≠ (gates 2 2).logic[(0 : Fin 16)] := by
  refine ⟨⟨_, exec_tickOsc_ready (k := 0) (by decide) witness_TickOscResult.2.1, ?_⟩,
    ⟨_, exec_tickGain_ready (k := 0) (by decide) witness_TickGainResult.1, ?_⟩,
    ⟨_, exec_tickBern_ready (k := 0) (by decide)
      (bernReady_of (v := .rat 2) (q := .rat 3) (by decide +kernel) (by rfl) (by rfl)), ?_, ?_, ?_⟩,
    ⟨_, exec_tickLogic_ready (k := 0) (by decide) witness_TickLogicResult.2.2.1, ?_⟩⟩
  · exact fun h => absurd (congrArg OutPort.ch h) (by decide +kernel)
  · exact fun h => absurd (congrArg OutPort.ch h) (by decide +kernel)
  · decide +kernel
  · decide +kernel
  · decide +kernel
  · exact fun h => absurd (congrArg (·.outA.ch) h) (by decide +kernel)

/-- Also the witness of `BernOutputsFollowLatch`, whose premise is the second clause. -/
theorem witness_ParametersNeverChange :
    step (State.reset.withFetchWord 16 0x0000) = .next State.reset ∧
      ∀ k : Fin 16, OutputsFollowLatch State.reset.bern[k] := by
  refine ⟨by rfl, fun k => .inl ?_⟩
  revert k
  decide +kernel

theorem witness_TicksOfDifferentUnitsCommute :
    tickAddress (.tickBern 0) = some (2, 0) ∧ tickAddress (.tickLogic 0) = some (3, 0) ∧ ((2, 0) : Nat × Nat) ≠ (3, 0) ∧
      ∃ a b, exec (.tickBern 0) (gates 2 2) = .next a ∧ exec (.tickLogic 0) a = .next b ∧ b.refused = false := by
  refine ⟨rfl, rfl, by decide, _, _, exec_tickBern_ready (k := 0) (by decide)
    (bernReady_of (v := .rat 0) (q := .rat 0) (by decide +kernel) (by rfl) (by rfl)),
    exec_tickLogic_ready (k := 0) (by decide) (logicReady_of (by decide +kernel) (by decide +kernel)), rfl⟩

theorem default_wf : Params.default.wf :=
  ⟨by decide, by decide, by decide, by decide, ⟨.rat 100, by rfl, by norm_num⟩, by decide, fun k c => by
    have h : ∀ k c : Fin 16, Params.default.phaseInit[k][c] = .rat 0 := by decide +kernel
    rw [h]; norm_num⟩

/-- The premise of `InvariantHoldsAtReset`, and of the assembler's second clause. -/
theorem witness_InvariantHoldsAtReset : Params.default.wf := default_wf

theorem witness_InvariantKeptByEveryStep :
    Inv State.reset ∧ step (State.reset.withFetchWord 16 0x0000) = .next State.reset := by
  refine ⟨⟨default_wf, by unfold ChannelCountsInRange; decide +kernel, ?_, ?_, fun _ => ?_⟩, by rfl⟩
  · have h : ∀ k : Fin 16, State.reset.bern[k].oracle.named = [] := by decide +kernel
    intro k r hr
    rw [h] at hr
    cases hr
  rotate_left
  · have h : ∀ k c : Fin 16, State.reset.osc[k].phase[c] = .rat 0 := by decide +kernel
    intro k c
    rw [h]; norm_num
  have h : ∀ k : Fin 16, State.reset.osc[k].out = .reset ∧ State.reset.gain[k].out = .reset ∧
      State.reset.bern[k].outA = .reset ∧ State.reset.bern[k].outB = .reset ∧ State.reset.logic[k].outA = .reset ∧
      State.reset.logic[k].outB = .reset := by decide +kernel
  have e : ∀ c : Fin 16, OutPort.reset.cells[c] = .unspec := by decide +kernel
  intro k
  obtain ⟨h1, h2, h3, h4, h5, h6⟩ := h k
  simp only [h1, h2, h3, h4, h5, h6, WithinLimit, BinaryLevels, e, Cell.holds, implies_true, and_self]

theorem witness_HostReadsPublishedLanesOnly :
    OutPort.reset.ch ≤ (0 : Fin 16).val ∧ (0 : Fin 16).val < (OutPort.reset.publishMono (.rat 10)).ch ∧
      (OutPort.reset.publishMono (.rat 10)).cells[(0 : Fin 16)] = .val (.rat 10) ∧
      (15 : Fin 16).val < (OutPort.reset.publish 16 fun _ => .unspec).ch ∧
      (OutPort.reset.publish 16 fun _ => .unspec).cells[(15 : Fin 16)] = .unspec := by decide +kernel

theorem witness_BusAddressesAreDistinct :
    (Bus.neutral.inPort .default 3 0 3).isSome = true ∧ (Bus.neutral.control .default 15 0 1).isSome = true ∧
      ((3, 0, 3) : Nat × Nat × Nat) ≠ (3, 0, 2) := by decide +kernel

theorem witness_AssemblerReadsBackText :
    (Instr.setMode 15 .linear).wellFormed = true ∧
      assembleLine .default "SETMODE 15, 1".toList = .ok [.setMode 15 .linear] := ⟨by decide, by decide +kernel⟩

end Sys2Proof.Tests
end

section
/-! PROOFS. The family of the scope: what the arithmetic is (R8, R10), the Frequency Mapper's formula (R98 to R102), and
the refusal of an oscillator tick that reads a non-finite value (R141, R143). -/

namespace Sys2Proof.Machine

/-! ### Reading the bus: range checks and finiteness (R9, R140, R141) -/

/-- R9: a range condition fails on a value exactly when no number the value holds meets it. -/
theorem test_eq_false_iff {f : Number → Bool} {v : Value} :
    v.test f = false ↔ ∀ x, v = .fin x → f x = false := by
  cases v <;> simp [Value.test]

theorem oscChannelsOk_iff {s : State} {k : Fin 16} :
    s.oscChannelsOk k = true ↔ ∀ p ∈ [s.bus.osc[k].pitch, s.bus.osc[k].fm], 0 ≤ p.ch ∧ p.ch ≤ 16 := by
  simp [State.oscChannelsOk, chOk_iff]

theorem oscControlBad_eq_false_iff {s : State} {k : Fin 16} :
    s.oscControlBad k = false ↔
      (∀ sr, s.bus.sampleRate = .fin sr → 0 < sr.toReal) ∧
        ∀ d, s.bus.osc[k].depth = .fin d → -1 ≤ d.toReal ∧ d.toReal ≤ 1 := by
  simp only [State.oscControlBad, Bool.or_eq_false_iff, test_eq_false_iff, le_eq_false_iff, lt_eq_false_iff,
    toReal_rat, Rat.cast_zero, Rat.cast_neg, Rat.cast_one]

/-- R94: the controls, globals and parameters `TICK_OSC` reads, and its lanes below the lane count. -/
theorem oscReadsFinite_iff {s : State} {k : Fin 16} :
    s.oscReadsFinite k = true ↔
      (∀ v ∈ [s.bus.osc[k].depth, s.bus.osc[k].odd, s.bus.osc[k].even, s.bus.sampleTime, s.bus.sampleRate,
          s.params.baseFreq, s.params.oscOutScale], v.isFinite = true) ∧
        ∀ c : Fin 16, c.val < s.bus.osc[k].lanes →
          (s.oscPitch k c).isFinite = true ∧ (s.oscFm k c).isFinite = true := by
  simp [State.oscReadsFinite, and_assoc]

/-! ### Refusing a tick -/

/-- R137: a command whose body answers a reason is refused with it. -/
theorem settle_error (w : Word) (s : State) (r : RefuseReason) :
    ∃ t, settle w s (.error r) = .next t ∧ RefusedWith r w s t :=
  ⟨s.refuse r w, rfl, refusedWith_refuse s r w⟩

/-- R143: the finiteness check is the last of `TICK_OSC`. -/
theorem tickOsc_nonFinite {s : State} {k : Fin 16} (unit : k.val < s.params.nOsc) (ch : s.oscChannelsOk k = true)
    (control : s.oscControlBad k = false) (finite : s.oscReadsFinite k = false) :
    tickOsc k.val s = .error .nonFinite := by
  simp only [tickOsc, unitIndex_of_lt unit, ch, control, finite, Bool.true_eq_false, Bool.false_eq_true, if_false,
    if_true]

/-- Settles O24: the first three hypotheses pass the earlier checks of R143, and a value that is not finite fails the
last one. -/
theorem nonFiniteOscRefuses : Obligations.NonFiniteOscRefuses := by
  intro s k hk hch hsr hd hbad
  have finite : s.oscReadsFinite k = false := by
    rw [← Bool.not_eq_true, oscReadsFinite_iff]
    rintro ⟨hscalar, hlane⟩
    rcases hbad with ⟨v, hv, hnf⟩ | ⟨c, hc, hnf⟩
    · simp [hscalar v hv] at hnf
    · obtain ⟨hpitch, hfm⟩ := hlane c hc
      simp [hpitch, hfm] at hnf
  have body := tickOsc_nonFinite hk (oscChannelsOk_iff.mpr hch) (oscControlBad_eq_false_iff.mpr ⟨hsr, hd⟩) finite
  rw [exec, execTickOsc, body]
  exact settle_error _ _ _

/-! ### The arithmetic (R8, R10) -/

theorem refExp2_zero {x : Number} (h : x.toReal = 0) : (refExp2 x).toReal = 1 := by
  rw [toReal_refExp2, h, Real.rpow_zero]

theorem refExp2_mono {x y : Number} (h : x.toReal ≤ y.toReal) : (refExp2 x).toReal ≤ (refExp2 y).toReal := by
  rw [toReal_refExp2, toReal_refExp2]
  exact Real.rpow_le_rpow_of_exponent_le one_le_two h

/-- Settles O29: powers of 2 for the reference record, the law `Exp2Lawful` for an implementation's. -/
theorem exp2NamedProperties : Obligations.Exp2NamedProperties := by
  intro n
  cases n with
  | ref => exact ⟨fun _ => refExp2_zero, fun _ _ => refExp2_mono⟩
  | impl => exact numImpl_exp2.2

/-- Settles O59: operation by operation, whether a result was computed out or left as a term. -/
theorem referenceArithmeticIsExact : Obligations.ReferenceArithmeticIsExact := by
  refine ⟨toReal_pi, fun x y => ⟨toReal_refAdd x y, toReal_refSub x y, toReal_refMul x y, fun _ => toReal_refDiv x y,
    ?_, toReal_refSin x, toReal_refExp2 x, fun _ _ _ => toReal_refPow x y⟩⟩
  rw [numRef_floor, floor_eq]
  exact ⟨Int.floor_le _, Int.lt_floor_add_one _⟩

theorem OfReal.toReal_congr {f : Number → Number} (hf : OfReal f) {x x' : Number} (hx : x.toReal = x'.toReal) :
    (f x).toReal = (f x').toReal :=
  congrArg Number.toReal (hf x x' hx)

theorem OfReals.toReal_congr {f : Number → Number → Number} (hf : OfReals f) {x x' y y' : Number}
    (hx : x.toReal = x'.toReal) (hy : y.toReal = y'.toReal) : (f x y).toReal = (f x' y').toReal :=
  congrArg Number.toReal (hf x x' y y' hx hy)

/-- Settles O60: a reference operation is that of the reals, and an implementation's is a function of the reals
(`OfReals`, `OfReal`). -/
theorem operationsAreFunctionsOfReals : Obligations.OperationsAreFunctionsOfReals := by
  intro n x x' y y' hx hy
  cases n with
  | ref =>
    simp only [numOf, numRef_add, numRef_sub, numRef_mul, numRef_div, numRef_floor, numRef_sin, numRef_exp2,
      numRef_pow, toReal_refAdd, toReal_refSub, toReal_refMul, toReal_refDiv, floor_eq, toReal_refSin,
      toReal_refExp2, toReal_refPow, hx, hy, and_self]
  | impl =>
    obtain ⟨exp2_ofReal, -, -⟩ := numImpl_exp2
    exact ⟨numImpl_add.toReal_congr hx hy, numImpl_sub.toReal_congr hx hy, numImpl_mul.toReal_congr hx hy,
      numImpl_div.toReal_congr hx hy, numImpl_floor x x' hx, numImpl_sin.toReal_congr hx, exp2_ofReal.toReal_congr hx,
      numImpl_pow.toReal_congr hx hy⟩

/-! ### The Frequency Mapper (R98 to R102) -/

/-- R100, R101. -/
theorem toReal_freq_exponential (N : Numerics) (base pitch fm d sr : Number) :
    (freq N base .exponential pitch fm d sr).toReal =
      min (max (freqExpRaw N base pitch fm d).toReal 0) (freqBound N sr).toReal := by
  rw [freq, toReal_clamp, toReal_rat, Rat.cast_zero]

/-- R100, R102. -/
theorem toReal_freq_linear (N : Numerics) (base pitch fm d sr : Number) :
    (freq N base .linear pitch fm d sr).toReal =
      min (max (freqLinRaw N base pitch fm d).toReal (-(freqBound N sr).toReal)) (freqBound N sr).toReal := by
  rw [freq, toReal_clamp, toReal_neg]

/-- Settles O28: each mode clamps its own raw frequency to the bound. -/
theorem frequencyMapperRule : Obligations.FrequencyMapperRule := fun n base pitch fm d sr =>
  ⟨toReal_freq_exponential (numOf n) base pitch fm d sr, toReal_freq_linear (numOf n) base pitch fm d sr⟩

end Sys2Proof.Machine
end

section
/-! PROOFS. The family of the state: what a command can do to each unit and to the rest of the state (R32 to R44), and
the invariant of the block. -/

namespace Sys2Proof.Machine

/-! ### Outside the units (R42, R43) -/

/-- A command that does not refuse writes neither the parameters, nor the mark, nor the report. -/
theorem OwnEffect.params_refused_report {i : Instr} {s t : State} (h : OwnEffect i s t) :
    t.params = s.params ∧ t.refused = s.refused ∧ t.report = s.report := by
  cases h <;> simp

theorem exec_params {i : Instr} {s t : State} (h : exec i s = .next t) : t.params = s.params := by
  rcases exec_cases h with own | ⟨r, rfl⟩
  · exact own.params_refused_report.1
  · rfl

/-- R42: a command sets the mark exactly when it reports a refusal. -/
theorem exec_refused_iff {i : Instr} {s t : State} (h : exec i s = .next t) (noReport : s.report = none) :
    t.refused = true ↔ s.refused = true ∨ t.report ≠ none := by
  rcases exec_cases h with own | ⟨r, rfl⟩
  · obtain ⟨-, refused, report⟩ := own.params_refused_report
    simp [refused, report, noReport]
  · simp

/-- Settles O50: an idle step, a command, or a word that is no command. -/
theorem parametersNeverChange : Obligations.ParametersNeverChange := by
  intro s t h
  rcases step_cases h with ⟨-, rfl⟩ | ⟨d, rest, -, ⟨i, -, hexec⟩ | ⟨-, rfl⟩⟩
  · rfl
  · rw [exec_params hexec, params_take]
  · rfl

theorem step_refused_iff {s t : State} {d : Delivery} {rest : List Delivery} (hp : s.pending = d :: rest)
    (h : step s = .next t) : t.refused = true ↔ s.refused = true ∨ t.report ≠ none := by
  rcases step_cases h with ⟨hnil, -⟩ | ⟨d', rest', -, ⟨i, -, hexec⟩ | ⟨-, rfl⟩⟩
  · simp [hp] at hnil
  · have command := exec_refused_iff hexec (report_take s d' rest')
    rwa [refused_take] at command
  · simp

/-- Settles O10: a step that takes a command, and an idle step, which keeps the mark. -/
theorem refusalMarkIsSticky : Obligations.RefusalMarkIsSticky := by
  refine ⟨fun s t d rest => step_refused_iff, fun s t h hs => ?_, fun _ => rfl⟩
  rcases step_cases h with ⟨-, rfl⟩ | ⟨d, rest, hp, -⟩
  · exact hs
  · exact (step_refused_iff hp h).mpr (.inl hs)

/-! ### The units after construction and after `RESET` (R44, R135) -/

theorem osc_construct (p : Params) (k : Fin 16) :
    (State.construct p).osc[k] = .afterReset p.phaseInit[k] 0 := ofFn_get _ k

theorem gain_construct (p : Params) (k : Fin 16) : (State.construct p).gain[k] = .afterReset 0 :=
  Vector.getElem_replicate k.isLt

theorem bern_construct (p : Params) (k : Fin 16) :
    (State.construct p).bern[k] = .afterReset p.bernInitLastHigh[k] p.bernInitLatch[k] ⟨[], 0⟩ := ofFn_get _ k

theorem logic_construct (p : Params) (k : Fin 16) : (State.construct p).logic[k] = .afterReset :=
  Vector.getElem_replicate k.isLt

theorem osc_resetUnits (s : State) (k : Fin 16) :
    s.resetUnits.osc[k] = .afterReset s.params.phaseInit[k] s.osc[k].draws := ofFn_get _ k

theorem gain_resetUnits (s : State) (k : Fin 16) : s.resetUnits.gain[k] = .afterReset s.gain[k].draws :=
  ofFn_get _ k

theorem bern_resetUnits (s : State) (k : Fin 16) :
    s.resetUnits.bern[k] = .afterReset s.params.bernInitLastHigh[k] s.params.bernInitLatch[k] s.bern[k].oracle :=
  ofFn_get _ k

theorem logic_resetUnits (s : State) (k : Fin 16) : s.resetUnits.logic[k] = .afterReset :=
  Vector.getElem_replicate k.isLt

theorem reset_cell (c : Fin 16) : OutPort.reset.cells[c] = .unspec := Vector.getElem_replicate c.isLt

theorem atResetValues_of {s : State} (osc : ∀ k : Fin 16, ∃ n, s.osc[k] = .afterReset s.params.phaseInit[k] n)
    (gain : ∀ k : Fin 16, ∃ n, s.gain[k] = .afterReset n)
    (bern : ∀ k : Fin 16, ∃ o, s.bern[k] = .afterReset s.params.bernInitLastHigh[k] s.params.bernInitLatch[k] o)
    (logic : ∀ k : Fin 16, s.logic[k] = .afterReset) : AtResetValues s := by
  intro k
  obtain ⟨n, hosc⟩ := osc k
  obtain ⟨m, hgain⟩ := gain k
  obtain ⟨o, hbern⟩ := bern k
  rw [hosc, hgain, hbern, logic k]
  refine ⟨fun _ => rfl, rfl, rfl, rfl, fun o ho => ?_⟩
  have registerReset : o = .reset := by
    simpa [OscUnit.afterReset, GainUnit.afterReset, BernUnit.afterReset, LogicUnit.afterReset] using ho
  exact registerReset ▸ ⟨rfl, reset_cell⟩

/-- Settles O19: construction and `RESET` write the same reset units. -/
theorem constructionHoldsResetValues : Obligations.ConstructionHoldsResetValues := by
  refine ⟨fun p => ⟨?_, rfl, rfl⟩, fun s =>
    ⟨s.resetUnits, rfl, ?_, params_resetUnits s, refused_resetUnits s⟩, rfl⟩
  · exact atResetValues_of (fun k => ⟨_, osc_construct p k⟩) (fun k => ⟨_, gain_construct p k⟩)
      (fun k => ⟨_, bern_construct p k⟩) (logic_construct p)
  · exact atResetValues_of (fun k => ⟨_, osc_resetUnits s k⟩) (fun k => ⟨_, gain_resetUnits s k⟩)
      (fun k => ⟨_, bern_resetUnits s k⟩) (logic_resetUnits s)

/-! ### What a command can do to one unit (R32, R35, R37, R38, R41) -/

/-- An entry of a unit file after a write is the value written there, or the old entry. -/
theorem set_get_cases {α : Type} (v : Vector α 16) (j k : Fin 16) (x : α) :
    (v.set j x)[k] = v[k] ∨ (k = j ∧ (v.set j x)[k] = x) := by
  by_cases h : k = j
  · subst h; exact .inr ⟨rfl, set_get_same v k x⟩
  · exact .inl (set_get_other v x h)

/-- R32, R35, R41: an oscillator is kept, ticked, given another mode, or reset. -/
theorem exec_osc {i : Instr} {s t : State} (h : exec i s = .next t) (k : Fin 16) :
    t.osc[k] = s.osc[k] ∨
    (i = .tickOsc k.val ∧ s.oscChannelsOk k = true ∧ t.osc[k] = s.oscAfter k) ∨
    (∃ m, (i = .setMode k.val m ∨ i = .loadCfg k.val) ∧ t.osc[k] = { s.osc[k] with fmMode := m }) ∨
    (i = .reset ∧ t.osc[k] = .afterReset s.params.phaseInit[k] s.osc[k].draws) := by
  rcases exec_cases h with own | ⟨r, rfl⟩
  swap
  · exact .inl rfl
  cases own with
  | nop | tickGain | tickBern | tickLogic | saveCfg => exact .inl rfl
  | tickOsc j _ _ ch =>
    rcases set_get_cases s.osc j k (s.oscAfter j) with kept | ⟨rfl, new⟩
    · exact .inl kept
    · exact .inr (.inl ⟨rfl, ch, new⟩)
  | setMode j m =>
    rcases set_get_cases s.osc j k { s.osc[j] with fmMode := m } with kept | ⟨rfl, new⟩
    · exact .inl kept
    · exact .inr (.inr (.inl ⟨m, .inl rfl, new⟩))
  | loadCfg j =>
    rcases set_get_cases s.osc j k { s.osc[j] with fmMode := parseFmMode s.record } with kept | ⟨rfl, new⟩
    · exact .inl kept
    · exact .inr (.inr (.inl ⟨_, .inr rfl, new⟩))
  | reset => exact .inr (.inr (.inr ⟨rfl, osc_resetUnits s k⟩))

/-- R41: a gain stage is kept, ticked or reset. -/
theorem exec_gain {i : Instr} {s t : State} (h : exec i s = .next t) (k : Fin 16) :
    t.gain[k] = s.gain[k] ∨
    (i = .tickGain k.val ∧ s.gainChannelsOk k = true ∧ t.gain[k] = s.gainAfter k) ∨
    (i = .reset ∧ t.gain[k] = .afterReset s.gain[k].draws) := by
  rcases exec_cases h with own | ⟨r, rfl⟩
  swap
  · exact .inl rfl
  cases own with
  | nop | tickOsc | tickBern | tickLogic | setMode | saveCfg | loadCfg => exact .inl rfl
  | tickGain j _ _ ch =>
    rcases set_get_cases s.gain j k (s.gainAfter j) with kept | ⟨rfl, new⟩
    · exact .inl kept
    · exact .inr (.inl ⟨rfl, ch, new⟩)
  | reset => exact .inr (.inr ⟨rfl, gain_resetUnits s k⟩)

/-- R37, R38, R41, R117: a Bernoulli unit is kept, ticked or reset. -/
theorem exec_bern {i : Instr} {s t : State} (h : exec i s = .next t) (k : Fin 16) :
    t.bern[k] = s.bern[k] ∨ (i = .tickBern k.val ∧ t.bern[k] = s.bernAfter k) ∨
    (i = .reset ∧
      t.bern[k] = .afterReset s.params.bernInitLastHigh[k] s.params.bernInitLatch[k] s.bern[k].oracle) := by
  rcases exec_cases h with own | ⟨r, rfl⟩
  swap
  · exact .inl rfl
  cases own with
  | nop | tickOsc | tickGain | tickLogic | setMode | saveCfg | loadCfg => exact .inl rfl
  | tickBern j =>
    rcases set_get_cases s.bern j k (s.bernAfter j) with kept | ⟨rfl, new⟩
    · exact .inl kept
    · exact .inr (.inl ⟨rfl, new⟩)
  | reset => exact .inr (.inr ⟨rfl, bern_resetUnits s k⟩)

/-- R41: a logic unit is kept, ticked or reset. -/
theorem exec_logic {i : Instr} {s t : State} (h : exec i s = .next t) (k : Fin 16) :
    t.logic[k] = s.logic[k] ∨ (i = .tickLogic k.val ∧ t.logic[k] = s.logicAfter k) ∨
    (i = .reset ∧ t.logic[k] = .afterReset) := by
  rcases exec_cases h with own | ⟨r, rfl⟩
  swap
  · exact .inl rfl
  cases own with
  | nop | tickOsc | tickGain | tickBern | setMode | saveCfg | loadCfg => exact .inl rfl
  | tickLogic j =>
    rcases set_get_cases s.logic j k (s.logicAfter j) with kept | ⟨rfl, new⟩
    · exact .inl kept
    · exact .inr (.inl ⟨rfl, new⟩)
  | reset => exact .inr (.inr ⟨rfl, logic_resetUnits s k⟩)

/-- R35: a tick writes the mode register back as it was. -/
theorem oscAfter_fmMode (s : State) (k : Fin 16) : (s.oscAfter k).fmMode = s.osc[k].fmMode := by
  rw [State.oscAfter]

/-- Settles O48: of what a command can do to an oscillator, only another mode and a reset change the register. -/
theorem onlyModeCommandsWriteMode : Obligations.OnlyModeCommandsWriteMode := by
  intro i s t k h changed
  rcases exec_osc h k with kept | ⟨-, -, ticked⟩ | ⟨m, hi | hi, -⟩ | ⟨hi, -⟩
  · exact absurd (congrArg OscUnit.fmMode kept) changed
  · rw [ticked, oscAfter_fmMode] at changed
    exact absurd rfl changed
  · exact .inl ⟨m, hi⟩
  · exact .inr (.inl hi)
  · exact .inr (.inr hi)

/-! ### Only the owning tick and `RESET` write (R32, R37, R38, R41, R117) -/

theorem exec_osc_phase_out {i : Instr} {s t : State} (h : exec i s = .next t) (k : Fin 16) :
    (t.osc[k].phase = s.osc[k].phase ∧ t.osc[k].out = s.osc[k].out) ∨ i = .tickOsc k.val ∨ i = .reset := by
  rcases exec_osc h k with kept | ⟨hi, -⟩ | ⟨m, -, mode⟩ | ⟨hi, -⟩
  · exact .inl ⟨by rw [kept], by rw [kept]⟩
  · exact .inr (.inl hi)
  · exact .inl ⟨by rw [mode], by rw [mode]⟩
  · exact .inr (.inr hi)

theorem bernAfter_held {s : State} {k : Fin 16} (h : ¬s.bernFires k = true) :
    (s.bernAfter k).latch = s.bern[k].latch ∧ (s.bernAfter k).oracle = s.bern[k].oracle :=
  ⟨if_neg h, if_neg h⟩

/-- R117: `RESET` leaves the oracle. -/
theorem exec_bern_latch_oracle {i : Instr} {s t : State} (h : exec i s = .next t) (k : Fin 16) :
    (i = .tickBern k.val ∧ s.bernFires k = true) ∨
    (t.bern[k].oracle = s.bern[k].oracle ∧ (t.bern[k].latch = s.bern[k].latch ∨ i = .reset)) := by
  rcases exec_bern h k with kept | ⟨hi, ticked⟩ | ⟨hi, reset⟩
  · exact .inr ⟨by rw [kept], .inl (by rw [kept])⟩
  · by_cases fires : s.bernFires k = true
    · exact .inl ⟨hi, fires⟩
    · obtain ⟨latch, oracle⟩ := bernAfter_held fires
      exact .inr ⟨by rw [ticked, oracle], .inl (by rw [ticked, latch])⟩
  · exact .inr ⟨by rw [reset, BernUnit.afterReset], .inr hi⟩

/-- Settles O49: clause by clause, from what a command can do to a unit of each kind. -/
theorem onlyOwningTickWrites : Obligations.OnlyOwningTickWrites := by
  intro i s t k h
  refine ⟨fun changed => ?_, fun changed => ?_, fun changed => ?_, fun changed => ?_, fun changed => ?_,
    fun changed => ?_⟩
  · rcases exec_osc_phase_out h k with ⟨phase, out⟩ | own
    · exact (changed.elim (· phase) (· out)).elim
    · exact own
  · rcases exec_gain h k with kept | ⟨hi, -⟩ | ⟨hi, -⟩
    · exact absurd (congrArg GainUnit.out kept) changed
    · exact .inl hi
    · exact .inr hi
  · rcases exec_bern h k with kept | ⟨hi, -⟩ | ⟨hi, -⟩
    · simp only [kept, ne_eq, not_true_eq_false, or_self] at changed
    · exact .inl hi
    · exact .inr hi
  · rcases exec_bern_latch_oracle h k with fired | ⟨-, latch | hi⟩
    · exact .inl fired
    · exact absurd latch changed
    · exact .inr hi
  · rcases exec_bern_latch_oracle h k with fired | ⟨oracle, -⟩
    · exact fired
    · exact absurd oracle changed
  · rcases exec_logic h k with kept | ⟨hi, -⟩ | ⟨hi, -⟩
    · exact absurd kept changed
    · exact .inl hi
    · exact .inr hi

/-! ### A logic unit keeps no state (R40, R127) -/

theorem setLogic_self (s : State) (k : Fin 16) : s.setLogic k s.logic[k] = s := by
  rw [State.setLogic, set_get_self]

/-- The registers after a second tick on the same bus are those after the first. -/
theorem logicAfter_setLogic_logicAfter (s : State) (k : Fin 16) :
    (s.setLogic k (s.logicAfter k)).logicAfter k = s.logicAfter k := by
  rw [State.logicAfter, logic_setLogic_same]
  simp only [State.logicAfter, State.logicBits, bus_setLogic, publishMono_twice]

theorem exec_tickLogic_ok {s : State} {k : Fin 16} (unit : k.val < s.params.nLogic)
    (ch : s.logicChannelsOk k = true) (finite : s.logicReadsFinite k = true) :
    exec (.tickLogic k.val) s = .next (s.setLogic k (s.logicAfter k)) := by
  simp only [exec, execTickLogic, tickLogic, unitIndex_of_lt unit, ch, finite, Bool.true_eq_false, if_false, settle]

/-- The checks of `TICK_LOGIC` read the parameters and the bus only, which a refusal keeps. -/
theorem tickLogic_refuse {s : State} {u : Nat} {e : RefuseReason} (h : tickLogic u s = .error e) (r : RefuseReason)
    (w : Word) : tickLogic u (s.refuse r w) = .error e := by
  have ch (k : Fin 16) : (s.refuse r w).logicChannelsOk k = s.logicChannelsOk k := rfl
  have finite (k : Fin 16) : (s.refuse r w).logicReadsFinite k = s.logicReadsFinite k := rfl
  cases hk : unitIndex s.params.nLogic u with
  | none => simpa only [tickLogic, params_refuse, hk] using h
  | some k =>
    simp only [tickLogic, params_refuse, hk, ch, finite] at h ⊢
    split_ifs at h ⊢
    · exact h
    · exact h

/-- Settles O47: a tick that ran leaves its unit as a second one would write it; a tick that refused refuses again. -/
theorem logicTickIsIdempotent : Obligations.LogicTickIsIdempotent := by
  intro s t u h
  rcases settle_next h with ran | ⟨e, refused, rfl⟩
  · cases tickLogic_ok ran with
    | tickLogic k _ unit ch finite =>
      have again := exec_tickLogic_ok (s := s.setLogic k (s.logicAfter k)) unit ch finite
      rw [logicAfter_setLogic_logicAfter] at again
      have self := setLogic_self (s.setLogic k (s.logicAfter k)) k
      rw [logic_setLogic_same] at self
      rw [again, self]
  · rw [exec, execTickLogic, tickLogic_refuse refused]
    rfl

/-! ### The invariant, unit by unit -/

/-- Every cell of a register is empty or holds a number with the property. A structure, so that Lean does not evaluate a
register's sixteen cells to see that a proof about it fits. -/
structure OutPort.CellsHold (f : ℝ → Prop) (o : OutPort) : Prop where
  cell : ∀ c : Fin 16, o.cells[c].holds f

/-- A bounded output in range: R41, R93, R109. -/
def OutPort.LimitOk (o : OutPort) : Prop := o.ch ≤ 16 ∧ o.CellsHold fun q => -10 ≤ q ∧ q ≤ 10

/-- A binary output in range: R41, R119, R125. -/
def OutPort.BinaryOk (o : OutPort) : Prop := o.ch ≤ 16 ∧ o.CellsHold fun q => q = 0 ∨ q = 10

/-- What the invariant says of an oscillator: R33, R41, R93. -/
def OscUnit.Ok (num : NumChoice) (o : OscUnit) : Prop :=
  o.out.LimitOk ∧ (num = .ref → ∀ c : Fin 16, 0 ≤ o.phase[c].toReal ∧ o.phase[c].toReal < 1)

/-- What the invariant says of a gain stage: R41, R109. -/
def GainUnit.Ok (g : GainUnit) : Prop := g.out.LimitOk

/-- What the invariant says of a Bernoulli unit: R41, R117, R119. -/
def BernUnit.Ok (b : BernUnit) : Prop :=
  b.outA.BinaryOk ∧ b.outB.BinaryOk ∧ ∀ r ∈ b.oracle.named, 0 ≤ r.toReal ∧ r.toReal < 1

/-- What the invariant says of a logic unit: R41, R125; the selector's outputs are not bounded (R126). -/
def LogicUnit.Ok (l : LogicUnit) : Prop := l.outA.BinaryOk ∧ l.outB.BinaryOk ∧ l.max.ch ≤ 16 ∧ l.min.ch ≤ 16

theorem inv_iff {s : State} :
    Inv s ↔ s.params.wf ∧ ∀ k : Fin 16, s.osc[k].Ok s.params.num ∧ s.gain[k].Ok ∧ s.bern[k].Ok ∧ s.logic[k].Ok := by
  constructor
  · rintro ⟨wf, count, draws, level, phase⟩
    refine ⟨wf, fun k => ?_⟩
    obtain ⟨chOsc, chGain, chBernA, chBernB, chLogicA, chLogicB, chMax, chMin⟩ := count k
    obtain ⟨osc, gain, bernA, bernB, logicA, logicB⟩ := level k
    exact ⟨⟨⟨chOsc, ⟨osc⟩⟩, fun ref => phase ref k⟩, ⟨chGain, ⟨gain⟩⟩,
      ⟨⟨chBernA, ⟨bernA⟩⟩, ⟨chBernB, ⟨bernB⟩⟩, draws k⟩,
      ⟨⟨chLogicA, ⟨logicA⟩⟩, ⟨chLogicB, ⟨logicB⟩⟩, chMax, chMin⟩⟩
  · rintro ⟨wf, unit⟩
    refine ⟨wf, fun k => ?_, fun k => ?_, fun k => ?_, fun ref k => ?_⟩ <;>
      obtain ⟨⟨⟨chOsc, ⟨osc⟩⟩, phase⟩, ⟨chGain, ⟨gain⟩⟩, ⟨⟨chBernA, ⟨bernA⟩⟩, ⟨chBernB, ⟨bernB⟩⟩, draws⟩,
        ⟨⟨chLogicA, ⟨logicA⟩⟩, ⟨chLogicB, ⟨logicB⟩⟩, chMax, chMin⟩⟩ := unit k
    · exact ⟨chOsc, chGain, chBernA, chBernB, chLogicA, chLogicB, chMax, chMin⟩
    · exact draws
    · exact ⟨osc, gain, bernA, bernB, logicA, logicB⟩
    · exact phase ref

/-! ### The invariant at reset values (R44) -/

theorem cellsHold_reset (f : ℝ → Prop) : OutPort.reset.CellsHold f := ⟨fun c => by rw [reset_cell]; trivial⟩

theorem limitOk_reset : OutPort.reset.LimitOk := ⟨Nat.zero_le _, cellsHold_reset _⟩

theorem binaryOk_reset : OutPort.reset.BinaryOk := ⟨Nat.zero_le _, cellsHold_reset _⟩

theorem ok_osc_afterReset {p : Params} (h : p.wf) (k : Fin 16) (n : Nat) :
    (OscUnit.afterReset p.phaseInit[k] n).Ok p.num := by
  obtain ⟨-, -, -, -, -, -, phase⟩ := h
  exact ⟨limitOk_reset, fun _ => phase k⟩

theorem ok_gain_afterReset (n : Nat) : (GainUnit.afterReset n).Ok := limitOk_reset

theorem ok_bern_afterReset (high : Bool) (latch : Latch) {o : Oracle}
    (h : ∀ r ∈ o.named, 0 ≤ r.toReal ∧ r.toReal < 1) : (BernUnit.afterReset high latch o).Ok :=
  ⟨binaryOk_reset, binaryOk_reset, h⟩

theorem ok_logic_afterReset : LogicUnit.afterReset.Ok :=
  ⟨binaryOk_reset, binaryOk_reset, Nat.zero_le _, Nat.zero_le _⟩

theorem inv_construct {p : Params} (h : p.wf) : Inv (State.construct p) := by
  refine inv_iff.mpr ⟨h, fun k => ?_⟩
  rw [osc_construct, gain_construct, bern_construct, logic_construct]
  exact ⟨ok_osc_afterReset h k 0, ok_gain_afterReset 0, ok_bern_afterReset _ _ (by simp), ok_logic_afterReset⟩

theorem paramsDefault_wf : Params.default.wf := by
  have phase (k c : Fin 16) : Params.default.phaseInit[k][c] = .rat 0 := by simp [Params.default]
  refine ⟨by decide, by decide, by decide, by decide, ⟨.rat 100, rfl, by norm_num⟩, rfl, fun k c => ?_⟩
  rw [phase]
  norm_num

/-- Settles O52: at construction every unit holds its reset values, which are in range. -/
theorem invariantHoldsAtReset : Obligations.InvariantHoldsAtReset :=
  ⟨fun _ => inv_construct, inv_construct paramsDefault_wf⟩

/-! ### The invariant after a tick -/

/-- A cell of a published register is a new one or an old one. -/
theorem cellsHold_publish {f : ℝ → Prop} {o : OutPort} {n : Nat} {cell : Fin 16 → Cell} (old : o.CellsHold f)
    (new : ∀ c, (cell c).holds f) : (o.publish n cell).CellsHold f := by
  refine ⟨fun c => ?_⟩
  rw [OutPort.publish, ofFn_get]
  split
  · exact new c
  · exact old.cell c

theorem clamp_ten_bounds (x : Number) :
    -10 ≤ (clamp x (.rat (-10)) (.rat 10)).toReal ∧ (clamp x (.rat (-10)) (.rat 10)).toReal ≤ 10 := by
  simpa using clamp_bounds (x := x) (lo := .rat (-10)) (hi := .rat 10) (by norm_num)

/-- R93: the output stage clamps to ±10. -/
theorem oscOutput_bounds (N : Numerics) (scale p o e : Number) :
    -10 ≤ (oscOutput N scale p o e).toReal ∧ (oscOutput N scale p o e).toReal ≤ 10 := clamp_ten_bounds _

/-- R109: the lane's product is clamped to ±10. -/
theorem gainOutput_bounds (N : Numerics) (x g kc : Number) :
    -10 ≤ (gainOutput N x g kc).toReal ∧ (gainOutput N x g kc).toReal ≤ 10 := clamp_ten_bounds _

theorem oscLanes_le {s : State} {k : Fin 16} (h : s.oscChannelsOk k = true) : s.bus.osc[k].lanes ≤ 16 := by
  obtain ⟨-, le⟩ := oscChannelsOk_iff.mp h s.bus.osc[k].pitch (by simp)
  unfold OscBus.lanes
  omega

theorem gainLanes_le {s : State} {k : Fin 16} (h : s.gainChannelsOk k = true) : s.bus.gain[k].lanes ≤ 16 := by
  rw [State.gainChannelsOk, Bool.and_eq_true, chOk_iff] at h
  obtain ⟨⟨-, le⟩, -⟩ := h
  unfold GainBus.lanes
  omega

/-- R33, R96: a phase after a tick is a wrapped one or a draw in [0, 1). -/
theorem oscAfter_phase_range {s : State} (ref : s.params.num = .ref) (k c : Fin 16) :
    0 ≤ (s.oscAfter k).phase[c].toReal ∧ (s.oscAfter k).phase[c].toReal < 1 := by
  rw [State.oscAfter, ofFn_get]
  split
  · rw [State.lanePhase, Params.numerics, ref, numOf, toReal_wrapPhase]
    exact ⟨Int.fract_nonneg _, Int.fract_lt_one _⟩
  · exact unitOf_range _

theorem ok_oscAfter {s : State} {k : Fin 16} (ch : s.oscChannelsOk k = true) (h : s.osc[k].Ok s.params.num) :
    (s.oscAfter k).Ok s.params.num := by
  obtain ⟨⟨-, level⟩, -⟩ := h
  exact ⟨⟨oscLanes_le ch, cellsHold_publish level fun _ => oscOutput_bounds _ _ _ _ _⟩,
    fun ref => oscAfter_phase_range ref k⟩

theorem gainCell_holds (s : State) (k c : Fin 16) : (s.gainCell k c).holds fun q => -10 ≤ q ∧ q ≤ 10 := by
  unfold State.gainCell
  split
  · exact gainOutput_bounds _ _ _ _
  · trivial

theorem ok_gainAfter {s : State} {k : Fin 16} (ch : s.gainChannelsOk k = true) (h : s.gain[k].Ok) :
    (s.gainAfter k).Ok := by
  obtain ⟨-, level⟩ := h
  exact ⟨gainLanes_le ch, cellsHold_publish level (gainCell_holds s k)⟩

theorem binaryOk_publishMono {o : OutPort} (h : o.BinaryOk) {v : Number} (level : v.toReal = 0 ∨ v.toReal = 10) :
    (o.publishMono v).BinaryOk := by
  obtain ⟨-, old⟩ := h
  exact ⟨(by decide : 1 ≤ 16), cellsHold_publish old fun _ => level⟩

theorem voltsA_level (l : Latch) : l.voltsA.toReal = 0 ∨ l.voltsA.toReal = 10 := by
  cases l <;> simp [Latch.voltsA, Config.highV, Config.lowV]

theorem voltsB_level (l : Latch) : l.voltsB.toReal = 0 ∨ l.voltsB.toReal = 10 := by
  cases l <;> simp [Latch.voltsB, Config.highV, Config.lowV]

theorem logicVolts_level (b : Bool) : (logicVolts b).toReal = 0 ∨ (logicVolts b).toReal = 10 := by
  cases b <;> simp [logicVolts, Config.logicHighV, Config.logicLowV]

/-- R117: a draw takes the first named element and names no new one. -/
theorem draw_named_subset (k : Fin 16) (o : Oracle) : (o.draw k).2.named ⊆ o.named := by
  unfold Oracle.draw
  split
  · next r rest hr => rw [hr]; exact List.subset_cons_self r rest
  · exact List.nil_subset _

theorem oracleAfter_named_subset (s : State) (k : Fin 16) : (s.oracleAfter k).named ⊆ s.bern[k].oracle.named := by
  unfold State.oracleAfter
  split
  · exact draw_named_subset k _
  · exact List.Subset.refl _

theorem ok_bernAfter {s : State} {k : Fin 16} (h : s.bern[k].Ok) : (s.bernAfter k).Ok := by
  obtain ⟨outA, outB, draws⟩ := h
  exact ⟨binaryOk_publishMono outA (voltsA_level _), binaryOk_publishMono outB (voltsB_level _),
    fun r hr => draws r (oracleAfter_named_subset s k hr)⟩

theorem ok_logicAfter {s : State} {k : Fin 16} (h : s.logic[k].Ok) : (s.logicAfter k).Ok := by
  obtain ⟨outA, outB, -, -⟩ := h
  exact ⟨binaryOk_publishMono outA (logicVolts_level _), binaryOk_publishMono outB (logicVolts_level _),
    (by decide : 1 ≤ 16), (by decide : 1 ≤ 16)⟩

/-! ### The invariant is kept -/

/-- A command keeps each unit in range: it is kept, ticked, given another mode, or reset. -/
theorem inv_exec {i : Instr} {s t : State} (inv : Inv s) (h : exec i s = .next t) : Inv t := by
  obtain ⟨wf, unit⟩ := inv_iff.mp inv
  refine inv_iff.mpr ⟨exec_params h ▸ wf, fun k => ?_⟩
  obtain ⟨osc, gain, bern, logic⟩ := unit k
  have ⟨_, _, draws⟩ := bern
  rw [exec_params h]
  refine ⟨?_, ?_, ?_, ?_⟩
  · rcases exec_osc h k with e | ⟨-, ch, e⟩ | ⟨m, -, e⟩ | ⟨-, e⟩ <;> rw [e]
    exacts [osc, ok_oscAfter ch osc, osc, ok_osc_afterReset wf k _]
  · rcases exec_gain h k with e | ⟨-, ch, e⟩ | ⟨-, e⟩ <;> rw [e]
    exacts [gain, ok_gainAfter ch gain, ok_gain_afterReset _]
  · rcases exec_bern h k with e | ⟨-, e⟩ | ⟨-, e⟩ <;> rw [e]
    exacts [bern, ok_bernAfter bern, ok_bern_afterReset _ _ draws]
  · rcases exec_logic h k with e | ⟨-, e⟩ | ⟨-, e⟩ <;> rw [e]
    exacts [logic, ok_logicAfter logic, ok_logic_afterReset]

/-- Settles O53: taking a delivery and refusing write nothing the invariant reads; a command keeps it. -/
theorem invariantKeptByEveryStep : Obligations.InvariantKeptByEveryStep := by
  intro s t inv h
  have taken (d : Delivery) (rest : List Delivery) : Inv (s.take d rest) := inv
  rcases step_cases h with ⟨-, rfl⟩ | ⟨d, rest, -, ⟨i, -, hexec⟩ | ⟨-, rfl⟩⟩
  · exact inv
  · exact inv_exec (taken d rest) hexec
  · exact taken d rest

end Sys2Proof.Machine
end

section
/-! PROOFS. The family of the host's interface: command words and their byte stream (R55, R65 to R68), the step (R59, R136),
the ports and the lanes (R49, R51 to R54), and the order of ticks (R61). -/

namespace Sys2Proof

/-! ### The fields of a command word (R65) -/

@[simp] theorem op_commandWord (op : BitVec 4) (u : Nat) (imm : BitVec 8) :
    (commandWord op u imm).extractLsb' 12 4 = op :=
  (BitVec.extractLsb'_append_eq_of_le (by decide)).trans BitVec.extractLsb'_append_eq_left

@[simp] theorem unit_commandWord (op : BitVec 4) (u : Nat) (imm : BitVec 8) :
    (commandWord op u imm).extractLsb' 8 4 = BitVec.ofNat 4 u :=
  (BitVec.extractLsb'_append_eq_of_le (by decide)).trans BitVec.extractLsb'_append_eq_right

@[simp] theorem imm_commandWord (op : BitVec 4) (u : Nat) (imm : BitVec 8) :
    (commandWord op u imm).extractLsb' 0 8 = imm := BitVec.extractLsb'_append_eq_right

theorem highByte_append_lowByte (w : Word) : w.extractLsb' 8 8 ++ w.extractLsb' 0 8 = w := by
  rw [BitVec.extractLsb'_append_extractLsb'_eq_extractLsb' (rfl : 8 = 0 + 8), BitVec.extractLsb'_eq_self]

theorem word_eq_commandWord (w : Word) :
    w = commandWord (w.extractLsb' 12 4) (w.extractLsb' 8 4).toNat (w.extractLsb' 0 8) := by
  rw [commandWord, BitVec.ofNat_toNat, BitVec.setWidth_eq,
    BitVec.extractLsb'_append_extractLsb'_eq_extractLsb' (rfl : 12 = 8 + 4)]
  exact (highByte_append_lowByte w).symm

/-- A word is its three fields. -/
theorem word_eq_iff {v w : Word} :
    v = w ↔ v.extractLsb' 12 4 = w.extractLsb' 12 4 ∧ v.extractLsb' 8 4 = w.extractLsb' 8 4 ∧
      v.extractLsb' 0 8 = w.extractLsb' 0 8 := by
  refine ⟨fun h => h ▸ ⟨rfl, rfl, rfl⟩, fun ⟨op, unit, imm⟩ => ?_⟩
  rw [word_eq_commandWord v, word_eq_commandWord w, op, unit, imm]

/-- R68: a word selects a row when each of its fields equals the row's under the row's mask. -/
theorem selects_commandWord (r : Row) (op : BitVec 4) (u : Nat) (imm : BitVec 8) :
    r.selects (commandWord op u imm) = true ↔
      op &&& r.mask.extractLsb' 12 4 = r.pattern.extractLsb' 12 4 ∧
        BitVec.ofNat 4 u &&& r.mask.extractLsb' 8 4 = r.pattern.extractLsb' 8 4 ∧
        imm &&& r.mask.extractLsb' 0 8 = r.pattern.extractLsb' 0 8 := by
  rw [Row.selects, beq_iff_eq, word_eq_iff]
  simp only [BitVec.extractLsb'_and, op_commandWord, unit_commandWord, imm_commandWord]

theorem unitField_commandWord (op : BitVec 4) {u : Nat} (h : u ≤ 15) (imm : BitVec 8) :
    unitField (commandWord op u imm) = u := by
  rw [unitField, unit_commandWord, BitVec.toNat_ofNat]
  exact Nat.mod_eq_of_lt (by omega)

theorem ofBit_toBit (m : FmMode) : FmMode.ofBit m.toBit = m := by cases m <;> rfl

theorem modeField_commandWord (op : BitVec 4) (u : Nat) (m : FmMode) :
    modeField (commandWord op u (0#7 ++ BitVec.ofBool m.toBit)) = m := by
  have bit : (commandWord op u (0#7 ++ BitVec.ofBool m.toBit)).getLsbD 0 = m.toBit := by
    rw [commandWord, BitVec.getLsbD_append]
    cases m <;> rfl
  rw [modeField, bit, ofBit_toBit]

/-- R67: the mode bit is the one `imm` bit that the mask of `SETMODE` leaves free. -/
theorem modeImm_masked (m : FmMode) : (0#7 ++ BitVec.ofBool m.toBit) &&& 0xFE#8 = 0#8 := by cases m <;> decide

/-! ### Reading a command back (R55, R65 to R68) -/

theorem decode_encode {i : Instr} (h : i.wellFormed = true) : decode (encode i) = .ok i := by
  cases i with
  | nop | reset => decide
  | setMode u m =>
    have hu : u ≤ 15 := of_decide_eq_true h
    simp [decode, encode, selects_commandWord, rowNop, rowTickOsc, rowTickGain, rowTickBern, rowTickLogic, rowSetMode,
      modeImm_masked, unitField_commandWord _ hu, modeField_commandWord]
  | tickOsc u | tickGain u | tickBern u | tickLogic u | saveCfg u | loadCfg u =>
    have hu : u ≤ 15 := of_decide_eq_true h
    simp [decode, encode, selects_commandWord, rowNop, rowTickOsc, rowTickGain, rowTickBern, rowTickLogic, rowSetMode,
      rowSaveCfg, rowLoadCfg, unitField_commandWord _ hu]

theorem decodeBytes_wordBytes {w : Word} {i : Instr} (h : decode w = .ok i) (rest : List Byte) :
    decodeBytes (wordBytes w ++ rest) = .ok (i, rest) := by
  simp only [wordBytes, List.cons_append, List.nil_append, decodeBytes, highByte_append_lowByte, h]

/-- Settles O2: the word selects the command's row and no row before it, field by field, and the two bytes are the word. -/
theorem decodeReadsBackEncode : Obligations.DecodeReadsBackEncode := fun _ rest h =>
  ⟨decode_encode h, decodeBytes_wordBytes (decode_encode h) rest⟩

end Sys2Proof

namespace Sys2Proof.Machine

/-! ### The step (R59, R65, R136) -/

theorem step_of_decode {s : State} {d : Delivery} {rest : List Delivery} {i : Instr} (hp : s.pending = d :: rest)
    (hi : decode d.word = .ok i) : step s = exec i (s.take d rest) := by
  simp only [step, hp, hi]

/-- Settles O5: the state in which the delivery was taken is `State.take`. -/
theorem stepRunsDecodedCommand : Obligations.StepRunsDecodedCommand := fun s d rest _ hp hi =>
  ⟨s.take d rest, step_of_decode hp hi, rfl, rfl, rfl, rfl, rfl, rfl, rfl, rfl, rfl, rfl, rfl⟩

/-- R136, R137: a command that refuses answers a next state too. -/
theorem settle_answers_next (w : Word) (s : State) (r : Except RefuseReason State) : ∃ t, settle w s r = .next t := by
  cases r with
  | ok t => exact ⟨t, rfl⟩
  | error e => exact ⟨s.refuse e w, rfl⟩

theorem exec_answers_next (i : Instr) (s : State) : ∃ t, exec i s = .next t := by
  cases i with
  | nop | reset => exact ⟨_, rfl⟩
  | tickOsc | tickGain | tickBern | tickLogic | setMode | saveCfg | loadCfg => exact settle_answers_next _ _ _

/-- Settles O8: an idle step, a command, or a word that is no command. -/
theorem everyStepAnswersNext : Obligations.EveryStepAnswersNext := by
  intro s
  unfold step
  split
  · exact ⟨s, rfl⟩
  · split
    · exact exec_answers_next _ _
    · exact ⟨_, rfl⟩

/-! ### The lanes of an input port (R49) -/

theorem read_of_ch_zero {p : InPort} (h : p.ch = 0) (c : Fin 16) (dflt drawn : Number) :
    p.read c dflt drawn = .fin dflt := if_pos h

theorem read_of_ch_one {p : InPort} (h : p.ch = 1) (c : Fin 16) (dflt drawn : Number) :
    p.read c dflt drawn = p.lanes[0] := by
  simp [InPort.read, h]

theorem read_lane {p : InPort} {c : Fin 16} (poly : 1 < p.ch) (h : (c.val : Int) < p.ch) (dflt drawn : Number) :
    p.read c dflt drawn = p.lanes[c] := by
  rw [InPort.read, if_neg (by omega), if_neg (by omega), if_pos h]

theorem read_beyond {p : InPort} {c : Fin 16} (poly : 1 < p.ch) (h : p.ch ≤ (c.val : Int)) (dflt drawn : Number) :
    p.read c dflt drawn = .fin drawn := by
  rw [InPort.read, if_neg (by omega), if_neg (by omega), if_neg (by omega)]

/-- Lane 0 of a port is never a drawn one, unless the declared count is negative. -/
theorem readMono_eq_read_of_nonneg {p : InPort} (h : 0 ≤ p.ch) (drawn : Number) :
    p.readMono = p.read 0 (.rat 0) drawn := by
  rcases h.eq_or_lt with zero | pos
  · rw [InPort.readMono, read_of_ch_zero zero.symm, read_of_ch_zero zero.symm]
  rcases (Int.add_one_le_of_lt pos).eq_or_lt with one | poly
  · rw [InPort.readMono, read_of_ch_one one.symm, read_of_ch_one one.symm]
  · rw [InPort.readMono, read_lane poly pos, read_lane poly pos]

/-- Settles O20: the four rows of R49; the reads of the ticks are `InPort.read` by definition. -/
theorem laneResolution : Obligations.LaneResolution :=
  ⟨fun _ c dflt drawn => ⟨fun h => read_of_ch_zero h c dflt drawn, fun h => read_of_ch_one h c dflt drawn,
      fun poly h => read_lane poly h dflt drawn, fun poly h => read_beyond poly h dflt drawn⟩,
    fun _ _ _ => ⟨⟨_, rfl⟩, ⟨_, rfl⟩, ⟨_, rfl⟩, ⟨_, rfl⟩⟩,
    fun _ drawn h => readMono_eq_read_of_nonneg h drawn⟩

end Sys2Proof.Machine
end

section
/-! PROOFS. The family of the host's interface, continued: the units by kind, as the port map (R51) and the ticks name
them. -/

namespace Sys2Proof.Machine

/-! ### The four kinds of unit (R5, R51) -/

/-- A unit kind of the port map. The helpers below say of any kind what the model says of each. -/
inductive UnitKind where
  | osc
  | gain
  | bern
  | logic

/-- The number of a kind in a port address. -/
def UnitKind.code : UnitKind → Nat
  | .osc => kindOsc
  | .gain => kindGain
  | .bern => kindBern
  | .logic => kindLogic

/-- What the state holds of a unit of the kind. -/
abbrev UnitKind.Registers : UnitKind → Type
  | .osc => OscUnit
  | .gain => GainUnit
  | .bern => BernUnit
  | .logic => LogicUnit

def State.unit (s : State) : (κ : UnitKind) → Fin 16 → κ.Registers
  | .osc, k => s.osc[k]
  | .gain, k => s.gain[k]
  | .bern, k => s.bern[k]
  | .logic, k => s.logic[k]

def State.setUnit (s : State) : (κ : UnitKind) → Fin 16 → κ.Registers → State
  | .osc => s.setOsc
  | .gain => s.setGain
  | .bern => s.setBern
  | .logic => s.setLogic

@[simp] theorem params_setUnit (s : State) (κ : UnitKind) (k : Fin 16) (x : κ.Registers) :
    (s.setUnit κ k x).params = s.params := by cases κ <;> rfl

@[simp] theorem bus_setUnit (s : State) (κ : UnitKind) (k : Fin 16) (x : κ.Registers) :
    (s.setUnit κ k x).bus = s.bus := by cases κ <;> rfl

theorem unit_setUnit_same (s : State) (κ : UnitKind) (k : Fin 16) (x : κ.Registers) :
    (s.setUnit κ k x).unit κ k = x := by
  cases κ <;> exact set_get_same _ k x

/-- Two units at different addresses have different numbers where they are of one kind. -/
theorem number_ne_of_address_ne {κ κ' : UnitKind} {k k' : Fin 16} (h : (κ.code, k.val) ≠ (κ'.code, k'.val)) :
    κ = κ' → k ≠ k' := by
  rintro rfl rfl
  exact h rfl

theorem unit_setUnit_other (s : State) {κ κ' : UnitKind} {k k' : Fin 16} (x : κ.Registers)
    (h : κ = κ' → k ≠ k') : (s.setUnit κ k x).unit κ' k' = s.unit κ' k' := by
  cases κ <;> cases κ'
  case osc.osc | gain.gain | bern.bern | logic.logic => exact set_get_other _ x (h rfl).symm
  all_goals rfl

theorem setUnit_comm (s : State) {κ κ' : UnitKind} {k k' : Fin 16} (x : κ.Registers) (x' : κ'.Registers)
    (h : κ = κ' → k ≠ k') : (s.setUnit κ k x).setUnit κ' k' x' = (s.setUnit κ' k' x').setUnit κ k x := by
  cases κ <;> cases κ'
  case osc.osc | gain.gain | bern.bern | logic.logic =>
    simp only [State.setUnit, State.setOsc, State.setGain, State.setBern, State.setLogic, Vector.set_comm x x'
      (Fin.val_ne_of_ne (h rfl))]
  all_goals rfl

/-! ### Ticks of different units (R61) -/

/-- The tick of a unit of the kind. -/
def UnitKind.tick : UnitKind → Nat → Instr
  | .osc => .tickOsc
  | .gain => .tickGain
  | .bern => .tickBern
  | .logic => .tickLogic

theorem tickAddress_some {i : Instr} {x : Nat × Nat} (h : tickAddress i = some x) :
    ∃ (κ : UnitKind) (u : Nat), i = κ.tick u ∧ x = (κ.code, u) := by
  cases i with
  | nop | setMode | saveCfg | loadCfg | reset => cases h
  | tickOsc u => exact ⟨.osc, u, rfl, (Option.some.inj h).symm⟩
  | tickGain u => exact ⟨.gain, u, rfl, (Option.some.inj h).symm⟩
  | tickBern u => exact ⟨.bern, u, rfl, (Option.some.inj h).symm⟩
  | tickLogic u => exact ⟨.logic, u, rfl, (Option.some.inj h).symm⟩

/-- The converse of `exec_cases`: a command that has an effect of its own runs it. -/
theorem exec_of_ownEffect {i : Instr} {s t : State} (h : OwnEffect i s t) : exec i s = .next t := by
  cases h with
  | nop | reset => rfl
  | tickOsc k _ unit ch control finite =>
    simp only [exec, execTickOsc, tickOsc, unitIndex_of_lt unit, ch, control, finite, Bool.true_eq_false,
      Bool.false_eq_true, if_false, settle]
  | tickGain k _ unit ch control pow finite =>
    simp only [exec, execTickGain, tickGain, unitIndex_of_lt unit, ch, control, pow, finite, Bool.true_eq_false,
      Bool.false_eq_true, if_false, settle]
  | tickBern k _ unit ch finite =>
    simp only [exec, execTickBern, tickBern, unitIndex_of_lt unit, ch, finite, Bool.true_eq_false, if_false, settle]
  | tickLogic k _ unit ch finite => exact exec_tickLogic_ok unit ch finite
  | setMode k m _ unit => simp only [exec, execSetMode, setMode, unitIndex_of_lt unit, settle]
  | saveCfg k _ unit => simp only [exec, execSaveCfg, saveCfg, unitIndex_of_lt unit, settle]
  | loadCfg k _ unit => simp only [exec, execLoadCfg, loadCfg, unitIndex_of_lt unit, settle]

theorem ownEffect_of_not_refused {i : Instr} {s t : State} (h : exec i s = .next t) (ok : t.refused = false) :
    OwnEffect i s t := by
  rcases exec_cases h with own | ⟨r, rfl⟩
  · exact own
  · cases ok

/-! A tick reads the parameters, the bus and its own unit. -/

section Reads

variable {s s' : State} {k : Fin 16} (params : s'.params = s.params) (bus : s'.bus = s.bus)
include params bus

theorem oscReads_congr (unit : s'.osc[k] = s.osc[k]) :
    s'.oscReadsFinite k = s.oscReadsFinite k ∧ s'.oscAfter k = s.oscAfter k := by
  unfold State.oscReadsFinite State.oscAfter State.laneOutput State.lanePhase State.laneFreq State.oscPitch State.oscFm
  rw [params, bus, unit]
  exact ⟨rfl, rfl⟩

theorem gainReads_congr (unit : s'.gain[k] = s.gain[k]) :
    s'.gainZeroPow k = s.gainZeroPow k ∧ s'.gainReadsFinite k = s.gainReadsFinite k ∧
      s'.gainAfter k = s.gainAfter k := by
  unfold State.gainZeroPow State.levelZeroPow State.cvZeroPow State.gainReadsFinite State.gainAfter State.gainCell
    State.gainLane State.baseGain State.cvFactor State.cvLaneBase State.gainIn State.gainCv
  rw [params, bus, unit]
  exact ⟨rfl, rfl, rfl⟩

theorem bernReads_congr (unit : s'.bern[k] = s.bern[k]) :
    s'.bernReadsFinite k = s.bernReadsFinite k ∧ s'.bernAfter k = s.bernAfter k := by
  unfold State.bernReadsFinite State.bernAfter State.latchAfter State.oracleAfter State.bernProb State.bernFires
  rw [params, bus, unit]
  exact ⟨rfl, rfl⟩

omit params in
theorem logicAfter_congr (unit : s'.logic[k] = s.logic[k]) : s'.logicAfter k = s.logicAfter k := by
  unfold State.logicAfter State.logicBits
  rw [bus, unit]

end Reads

/-- A tick that runs writes its own unit only, and it writes the same in any state with the same parameters, bus and own
unit. -/
theorem tick_ownEffect {κ : UnitKind} {u : Nat} {s t : State} (h : OwnEffect (κ.tick u) s t) :
    ∃ (k : Fin 16) (x : κ.Registers), k.val = u ∧ t = s.setUnit κ k x ∧
      ∀ s' : State, s'.params = s.params → s'.bus = s.bus → s'.unit κ k = s.unit κ k →
        OwnEffect (κ.tick u) s' (s'.setUnit κ k x) := by
  cases κ with
  | osc =>
    cases h with
    | tickOsc k _ exists_ ch control finite =>
      refine ⟨k, s.oscAfter k, rfl, rfl, fun s' params bus unit => ?_⟩
      obtain ⟨finite', after⟩ := oscReads_congr params bus unit
      rw [← after]
      exact .tickOsc k s' (params ▸ exists_) (by rwa [State.oscChannelsOk, bus]) (by rwa [State.oscControlBad, bus])
        (finite'.trans finite)
  | gain =>
    cases h with
    | tickGain k _ exists_ ch control pow finite =>
      refine ⟨k, s.gainAfter k, rfl, rfl, fun s' params bus unit => ?_⟩
      obtain ⟨pow', finite', after⟩ := gainReads_congr params bus unit
      rw [← after]
      exact .tickGain k s' (params ▸ exists_) (by rwa [State.gainChannelsOk, bus]) (by rwa [State.gainControlBad, bus])
        (pow'.trans pow) (finite'.trans finite)
  | bern =>
    cases h with
    | tickBern k _ exists_ ch finite =>
      refine ⟨k, s.bernAfter k, rfl, rfl, fun s' params bus unit => ?_⟩
      obtain ⟨finite', after⟩ := bernReads_congr params bus unit
      rw [← after]
      exact .tickBern k s' (params ▸ exists_) (by rwa [State.bernChannelsOk, bus]) (finite'.trans finite)
  | logic =>
    cases h with
    | tickLogic k _ exists_ ch finite =>
      refine ⟨k, s.logicAfter k, rfl, rfl, fun s' params bus unit => ?_⟩
      rw [← logicAfter_congr bus unit]
      exact .tickLogic k s' (params ▸ exists_) (by rwa [State.logicChannelsOk, bus])
        (by rwa [State.logicReadsFinite, bus])

/-- Settles O51: each tick runs as well before the other as after it, and their two writes commute. -/
theorem ticksOfDifferentUnitsCommute : Obligations.TicksOfDifferentUnitsCommute := by
  intro i j x y s a b hx hy hne hi hj ok
  obtain ⟨κ, u, rfl, rfl⟩ := tickAddress_some hx
  obtain ⟨κ', u', rfl, rfl⟩ := tickAddress_some hy
  have second := ownEffect_of_not_refused hj ok
  obtain ⟨-, refused, -⟩ := second.params_refused_report
  have first := ownEffect_of_not_refused hi (refused.symm.trans ok)
  obtain ⟨k, r, rfl, rfl, firstElsewhere⟩ := tick_ownEffect first
  obtain ⟨k', r', rfl, rfl, secondElsewhere⟩ := tick_ownEffect second
  have other : κ = κ' → k ≠ k' := number_ne_of_address_ne hne
  have other' : κ' = κ → k' ≠ k := number_ne_of_address_ne hne.symm
  have early : OwnEffect (κ'.tick k') s (s.setUnit κ' k' r') :=
    secondElsewhere s (params_setUnit ..).symm (bus_setUnit ..).symm (unit_setUnit_other s r other).symm
  have late : OwnEffect (κ.tick k) (s.setUnit κ' k' r') ((s.setUnit κ' k' r').setUnit κ k r) :=
    firstElsewhere _ (params_setUnit ..) (bus_setUnit ..) (unit_setUnit_other s r' other')
  exact ⟨s.setUnit κ' k' r', exec_of_ownEffect early, setUnit_comm s r r' other ▸ exec_of_ownEffect late⟩

end Sys2Proof.Machine
end

section
/-! PROOFS. The family of the host's interface, continued: reading an output port (R51, R52, R54). -/

namespace Sys2Proof.Machine

/-! ### Reading an output port (R51, R52, R54, R154) -/

theorem readLane_beyond {o : OutPort} {c : Fin 16} (h : o.ch ≤ c.val) : o.readLane c = .ok none :=
  if_neg (Nat.not_lt.mpr h)

theorem readLane_val {o : OutPort} {c : Fin 16} (h : c.val < o.ch) {q : Number} (cell : o.cells[c] = .val q) :
    o.readLane c = .ok (some q) := by
  rw [OutPort.readLane, if_pos h, cell]

theorem readLane_unspec {o : OutPort} {c : Fin 16} (h : c.val < o.ch) (cell : o.cells[c] = .unspec) :
    o.readLane c = .error .unspecRead := by
  rw [OutPort.readLane, if_pos h, cell]

theorem outPort_off_map {s : State} {kind u port : Nat} (osc : ¬(kind = 0 ∧ port = 0 ∧ u < s.params.nOsc))
    (gain : ¬(kind = 1 ∧ port = 0 ∧ u < s.params.nGain)) (bern : ¬(kind = 2 ∧ port ≤ 1 ∧ u < s.params.nBern))
    (logic : ¬(kind = 3 ∧ port ≤ 3 ∧ u < s.params.nLogic)) : s.outPort kind u port = none := by
  unfold State.outPort
  split
  case h_9 => rfl
  all_goals rw [unitIndex_of_le (by omega), Option.map_none]

theorem outPort_construct {p : Params} {kind u port : Nat} {o : OutPort}
    (h : (State.construct p).outPort kind u port = some o) : o = .reset := by
  unfold State.outPort at h
  split at h
  case h_9 => cases h
  all_goals
    obtain ⟨k, -, rfl⟩ := Option.map_eq_some_iff.mp h
    simp only [osc_construct, gain_construct, bern_construct, logic_construct, OscUnit.afterReset,
      GainUnit.afterReset, BernUnit.afterReset, LogicUnit.afterReset]

/-- Settles O55: the port map names a register, whose lanes read as its count and its cells say. -/
theorem hostReadsPublishedLanesOnly : Obligations.HostReadsPublishedLanesOnly := by
  refine ⟨fun o c => ⟨readLane_beyond, fun h q => readLane_val h, readLane_unspec⟩, fun s k c => ?_,
    fun s kind u port c osc gain bern logic => ?_, fun p kind u port c => ?_⟩
  · refine ⟨fun unit => ?_, fun unit => ?_, fun unit => ?_, fun unit => ?_⟩ <;>
      simp [hostRead, State.outPort, unitIndex_of_lt unit]
  · rw [hostRead, outPort_off_map osc gain bern logic]
  · cases h : (State.construct p).outPort kind u port with
    | none => simp only [hostRead, h]
    | some o =>
      rw [outPort_construct h] at h
      simp only [hostRead, h]
      exact readLane_beyond (Nat.zero_le _)

/-- Settles O39: the tick publishes an empty cell on every lane below the signal's count. -/
theorem unconnectedGainOutputUnreadable : Obligations.UnconnectedGainOutputUnreadable := by
  intro s k c unit ready conn lane
  refine ⟨_, exec_tickGain_ready unit ready, ?_⟩
  have below : c.val < s.bus.gain[k].lanes := by
    unfold GainBus.lanes
    omega
  have cell : (s.gainAfter k).out.cells[c] = .unspec := by
    rw [State.gainAfter, publish_cell_below _ _ below, State.gainCell, conn, if_neg Bool.false_ne_true]
  have register : (s.setGain k (s.gainAfter k)).outPort 1 k.val 0 = some (s.gainAfter k).out := by
    simp [State.outPort, unitIndex_of_lt unit]
  rw [hostRead, register]
  exact readLane_unspec below cell

end Sys2Proof.Machine
end

section
/-! PROOFS. The family of the host's interface, concluded: driving the input bus (R51). -/

namespace Sys2Proof.Machine

/-! ### What stands on the input bus, by kind (R51) -/

/-- The kinds of a bus address: those of the units, and the globals. -/
inductive BusKind where
  | osc
  | gain
  | bern
  | logic
  | global

/-- The kind a number of a port address names. -/
def BusKind.ofCode : Nat → Option BusKind
  | 0 => some .osc
  | 1 => some .gain
  | 2 => some .bern
  | 3 => some .logic
  | 15 => some .global
  | _ => none

/-- The number of a kind in a port address. -/
def BusKind.code : BusKind → Nat
  | .osc => 0
  | .gain => 1
  | .bern => 2
  | .logic => 3
  | .global => 15

/-- What the host drives for a unit of the kind. -/
abbrev BusKind.Inputs : BusKind → Type
  | .osc => OscBus
  | .gain => GainBus
  | .bern => BernBus
  | .logic => LogicBus
  | .global => Value × Value

/-- The globals stand at the one number 0 (assumption 29). -/
abbrev Params.busCount (p : Params) : BusKind → Nat
  | .osc => p.nOsc
  | .gain => p.nGain
  | .bern => p.nBern
  | .logic => p.nLogic
  | .global => 1

/-- The unit at an address, if it exists. -/
def Params.busUnit (p : Params) (kind u : Nat) : Option (BusKind × Fin 16) :=
  (BusKind.ofCode kind).bind fun κ => (unitIndex (p.busCount κ) u).map fun k => (κ, k)

def Bus.inputs (b : Bus) : (κ : BusKind) → Fin 16 → κ.Inputs
  | .osc, k => b.osc[k]
  | .gain, k => b.gain[k]
  | .bern, k => b.bern[k]
  | .logic, k => b.logic[k]
  | .global, _ => (b.sampleTime, b.sampleRate)

def Bus.setInputs (b : Bus) : (κ : BusKind) → Fin 16 → κ.Inputs → Bus
  | .osc, k, x => { b with osc := b.osc.set k x }
  | .gain, k, x => { b with gain := b.gain.set k x }
  | .bern, k, x => { b with bern := b.bern.set k x }
  | .logic, k, x => { b with logic := b.logic.set k x }
  | .global, _, x => { b with sampleTime := x.1, sampleRate := x.2 }

/-- The input ports and controls of a unit, by port number: they share one number space. -/
def BusKind.ports : (κ : BusKind) → κ.Inputs → List (InPort ⊕ Value)
  | .osc, x => [.inl x.pitch, .inl x.fm, .inr x.depth, .inr x.odd, .inr x.even]
  | .gain, x => [.inl x.input, .inl x.cv, .inr x.level, .inr x.curve, .inr x.offset]
  | .bern, x => [.inl x.gate, .inl x.prob]
  | .logic, x => [.inl x.a, .inl x.b, .inl x.x, .inl x.y]
  | .global, x => [.inr x.1, .inr x.2]

/-- The inputs of a unit with another input port at a port number. -/
def BusKind.setInPort : (κ : BusKind) → κ.Inputs → Nat → InPort → κ.Inputs
  | .osc, x, 0, v => { x with pitch := v }
  | .osc, x, 1, v => { x with fm := v }
  | .gain, x, 0, v => { x with input := v }
  | .gain, x, 1, v => { x with cv := v }
  | .bern, x, 0, v => { x with gate := v }
  | .bern, x, 1, v => { x with prob := v }
  | .logic, x, 0, v => { x with a := v }
  | .logic, x, 1, v => { x with b := v }
  | .logic, x, 2, v => { x with x := v }
  | .logic, x, 3, v => { x with y := v }
  | _, x, _, _ => x

/-- The inputs of a unit with another control at a port number. -/
def BusKind.setControl : (κ : BusKind) → κ.Inputs → Nat → Value → κ.Inputs
  | .osc, x, 2, v => { x with depth := v }
  | .osc, x, 3, v => { x with odd := v }
  | .osc, x, 4, v => { x with even := v }
  | .gain, x, 2, v => { x with level := v }
  | .gain, x, 3, v => { x with curve := v }
  | .gain, x, 4, v => { x with offset := v }
  | .global, x, 0, v => (v, x.2)
  | .global, x, 1, v => (x.1, v)
  | _, x, _, _ => x

/-- What stands at an address of the bus. -/
def Bus.port (b : Bus) (p : Params) (kind u port : Nat) : Option (InPort ⊕ Value) :=
  (p.busUnit kind u).bind fun x => (x.1.ports (b.inputs x.1 x.2))[port]?


/-! ### Driving the inputs of one unit -/

theorem ports_setInPort (κ : BusKind) (x : κ.Inputs) (port : Nat) (v : InPort) :
    κ.ports (κ.setInPort x port v) = (κ.ports x).modify port (Sum.map (fun _ => v) id) := by
  cases κ <;> rcases port with _ | _ | _ | _ | _ | _ | port <;> rfl

theorem ports_setControl (κ : BusKind) (x : κ.Inputs) (port : Nat) (v : Value) :
    κ.ports (κ.setControl x port v) = (κ.ports x).modify port (Sum.map id fun _ => v) := by
  cases κ <;> rcases port with _ | _ | _ | _ | _ | _ | port <;> rfl

theorem inputs_setInputs_same (b : Bus) (κ : BusKind) (k : Fin 16) (x : κ.Inputs) :
    (b.setInputs κ k x).inputs κ k = x := by
  cases κ
  case global => rfl
  all_goals exact set_get_same _ k x

/-- The globals are excluded: they stand at one number only. -/
theorem inputs_setInputs_other (b : Bus) {κ κ' : BusKind} {k k' : Fin 16} (x : κ.Inputs)
    (h : κ = κ' → κ ≠ .global ∧ k ≠ k') : (b.setInputs κ k x).inputs κ' k' = b.inputs κ' k' := by
  cases κ <;> cases κ'
  case osc.osc | gain.gain | bern.bern | logic.logic => exact set_get_other _ x (h rfl).2.symm
  case global.global => exact absurd rfl (h rfl).1
  all_goals rfl

/-! ### The model's port map, kind by kind (R51) -/

theorem ofCode_some {kind : Nat} {κ : BusKind} (h : BusKind.ofCode kind = some κ) : kind = κ.code := by
  unfold BusKind.ofCode at h
  split at h <;> cases h <;> rfl

theorem busUnit_some {p : Params} {kind u : Nat} {κ : BusKind} {k : Fin 16} (h : p.busUnit kind u = some (κ, k)) :
    kind = κ.code ∧ u = k.val ∧ k.val < p.busCount κ := by
  obtain ⟨κ', code, unit⟩ := Option.bind_eq_some_iff.mp h
  obtain ⟨k', unit, pair⟩ := Option.map_eq_some_iff.mp unit
  cases pair
  obtain ⟨rfl, lt⟩ := unitIndex_some unit
  exact ⟨ofCode_some code, rfl, lt⟩

theorem inPort_code (b : Bus) {p : Params} {κ : BusKind} {k : Fin 16} (h : k.val < p.busCount κ) (port : Nat) :
    b.inPort p κ.code k.val port = (κ.ports (b.inputs κ k))[port]?.bind Sum.getLeft? := by
  have unit := unitIndex_of_lt h
  cases κ <;> rcases port with _ | _ | _ | _ | _ | port <;>
    simp [Bus.inPort, BusKind.code, BusKind.ports, Bus.inputs, unit]

theorem control_code (b : Bus) {p : Params} {κ : BusKind} {k : Fin 16} (h : k.val < p.busCount κ) (port : Nat) :
    b.control p κ.code k.val port = (κ.ports (b.inputs κ k))[port]?.bind Sum.getRight? := by
  have unit := unitIndex_of_lt h
  have globals : κ = .global → k.val = 0 := by
    rintro rfl
    exact Nat.lt_one_iff.mp h
  cases κ <;> rcases port with _ | _ | _ | _ | _ | port <;>
    simp [Bus.control, BusKind.code, BusKind.ports, Bus.inputs, unit, globals]

theorem setInPort_code (b : Bus) {p : Params} {κ : BusKind} {k : Fin 16} (h : k.val < p.busCount κ) (port : Nat)
    (v : InPort) :
    b.setInPort p κ.code k.val port v = b.setInputs κ k (κ.setInPort (b.inputs κ k) port v) := by
  have unit := unitIndex_of_lt h
  unfold Bus.setInPort
  cases κ <;> rcases port with _ | _ | _ | _ | _ | port <;>
    simp only [BusKind.code, unit, BusKind.setInPort, Bus.setInputs, Bus.inputs, set_get_self]

theorem setControl_code (b : Bus) {p : Params} {κ : BusKind} {k : Fin 16} (h : k.val < p.busCount κ) (port : Nat)
    (v : Value) :
    b.setControl p κ.code k.val port v = b.setInputs κ k (κ.setControl (b.inputs κ k) port v) := by
  have unit := unitIndex_of_lt h
  unfold Bus.setControl
  cases κ <;> rcases port with _ | _ | _ | _ | _ | port <;>
    simp only [BusKind.code, unit, BusKind.setControl, Bus.setInputs, Bus.inputs, set_get_self]

/-! An address whose unit does not exist holds nothing, and driving it does nothing (assumption 18). Each row of the map
asks for the unit of its kind. -/

section OffMap

variable {p : Params} {kind u : Nat} (h : p.busUnit kind u = none)
include h

theorem inPort_off_map (b : Bus) (port : Nat) : b.inPort p kind u port = none := by
  unfold Bus.inPort
  split <;> simp_all [Params.busUnit, BusKind.ofCode]

theorem control_off_map (b : Bus) (port : Nat) : b.control p kind u port = none := by
  unfold Bus.control
  split <;> simp_all [Params.busUnit, BusKind.ofCode, unitIndex]

theorem setInPort_off_map (b : Bus) (port : Nat) (v : InPort) : b.setInPort p kind u port v = b := by
  unfold Bus.setInPort
  split <;> simp_all [Params.busUnit, BusKind.ofCode]

theorem setControl_off_map (b : Bus) (port : Nat) (v : Value) : b.setControl p kind u port v = b := by
  unfold Bus.setControl
  split <;> simp_all [Params.busUnit, BusKind.ofCode]

theorem port_off_map (b : Bus) (port : Nat) : b.port p kind u port = none := by
  rw [Bus.port, h, Option.bind_none]

end OffMap

theorem inPort_eq_port (b : Bus) (p : Params) (kind u port : Nat) :
    b.inPort p kind u port = (b.port p kind u port).bind Sum.getLeft? := by
  cases unit : p.busUnit kind u with
  | none => rw [inPort_off_map unit, port_off_map unit, Option.bind_none]
  | some x =>
    obtain ⟨rfl, rfl, lt⟩ := busUnit_some unit
    rw [inPort_code b lt, Bus.port, unit, Option.bind_some]

theorem control_eq_port (b : Bus) (p : Params) (kind u port : Nat) :
    b.control p kind u port = (b.port p kind u port).bind Sum.getRight? := by
  cases unit : p.busUnit kind u with
  | none => rw [control_off_map unit, port_off_map unit, Option.bind_none]
  | some x =>
    obtain ⟨rfl, rfl, lt⟩ := busUnit_some unit
    rw [control_code b lt, Bus.port, unit, Option.bind_some]

/-- Two addresses of units name two units, and two globals cannot be. -/
theorem busUnit_other {p : Params} {kind u kind' u' : Nat} {κ κ' : BusKind} {k k' : Fin 16}
    (unit : p.busUnit kind u = some (κ, k)) (unit' : p.busUnit kind' u' = some (κ', k'))
    (h : (kind, u) ≠ (kind', u')) : κ = κ' → κ ≠ .global ∧ k ≠ k' := by
  obtain ⟨rfl, rfl, lt⟩ := busUnit_some unit
  obtain ⟨rfl, rfl, lt'⟩ := busUnit_some unit'
  rintro rfl
  have number : k ≠ k' := by
    rintro rfl
    exact h rfl
  refine ⟨?_, number⟩
  rintro rfl
  exact number (Fin.ext ((Nat.lt_one_iff.mp lt).trans (Nat.lt_one_iff.mp lt').symm))

/-! ### Driving an address (R51, assumption 18) -/

/-- Writing a unit's inputs with one port changed changes that port's address and no other. -/
theorem port_setInputs (b : Bus) {p : Params} {kind u port : Nat} {κ : BusKind} {k : Fin 16}
    (unit : p.busUnit kind u = some (κ, k)) {x : κ.Inputs} {f : InPort ⊕ Value → InPort ⊕ Value}
    (ports : κ.ports x = (κ.ports (b.inputs κ k)).modify port f) (kind' u' port' : Nat) :
    (b.setInputs κ k x).port p kind' u' port' =
      if (kind, u, port) = (kind', u', port') then (b.port p kind u port).map f else b.port p kind' u' port' := by
  by_cases address : (kind, u) = (kind', u')
  · cases address
    rw [Bus.port, Bus.port, Bus.port, unit, Option.bind_some, Option.bind_some, Option.bind_some,
      inputs_setInputs_same, ports, List.getElem?_modify]
    by_cases number : port = port'
    · subst number; simp
    · simp [number]
  · have triple : (kind, u, port) ≠ (kind', u', port') := by
      rintro ⟨⟩
      exact address rfl
    rw [if_neg triple]
    cases unit' : p.busUnit kind' u' with
    | none => rw [port_off_map unit', port_off_map unit']
    | some y =>
      rw [Bus.port, Bus.port, unit', Option.bind_some, Option.bind_some,
        inputs_setInputs_other b x (busUnit_other unit unit' address)]

/-- What is read of a bus on which the host has driven one address. -/
theorem port_driven {b b' : Bus} {p : Params} {kind u port : Nat} {f : InPort ⊕ Value → InPort ⊕ Value}
    (off : p.busUnit kind u = none → b' = b)
    (on : ∀ κ k, p.busUnit kind u = some (κ, k) →
      ∃ x, b' = b.setInputs κ k x ∧ κ.ports x = (κ.ports (b.inputs κ k)).modify port f)
    (kind' u' port' : Nat) :
    b'.port p kind' u' port' =
      if (kind, u, port) = (kind', u', port') then (b.port p kind u port).map f else b.port p kind' u' port' := by
  cases unit : p.busUnit kind u with
  | none =>
    rw [off unit, port_off_map unit, Option.map_none]
    split
    · next same => cases same; exact port_off_map unit b port
    · rfl
  | some y =>
    obtain ⟨x, rfl, ports⟩ := on y.1 y.2 unit
    exact port_setInputs b unit ports kind' u' port'

theorem port_setInPort (b : Bus) (p : Params) (kind u port kind' u' port' : Nat) (v : InPort) :
    (b.setInPort p kind u port v).port p kind' u' port' =
      if (kind, u, port) = (kind', u', port') then (b.port p kind u port).map (Sum.map (fun _ => v) id)
      else b.port p kind' u' port' := by
  refine port_driven (fun off => setInPort_off_map off b port v) (fun κ k unit => ?_) kind' u' port'
  obtain ⟨rfl, rfl, lt⟩ := busUnit_some unit
  exact ⟨_, setInPort_code b lt port v, ports_setInPort κ _ port v⟩

theorem port_setControl (b : Bus) (p : Params) (kind u port kind' u' port' : Nat) (v : Value) :
    (b.setControl p kind u port v).port p kind' u' port' =
      if (kind, u, port) = (kind', u', port') then (b.port p kind u port).map (Sum.map id fun _ => v)
      else b.port p kind' u' port' := by
  refine port_driven (fun off => setControl_off_map off b port v) (fun κ k unit => ?_) kind' u' port'
  obtain ⟨rfl, rfl, lt⟩ := busUnit_some unit
  exact ⟨_, setControl_code b lt port v, ports_setControl κ _ port v⟩

/-- Settles O56: driving an address changes what stands there and nothing else that stands on the bus. -/
theorem busAddressesAreDistinct : Obligations.BusAddressesAreDistinct := by
  refine ⟨fun b p k => ?_, fun b p kind u port kind' u' port' v x => ?_⟩
  · refine ⟨fun unit => ?_, fun unit => ?_, fun unit => ?_, fun unit => ?_, rfl, rfl⟩ <;>
      simp [Bus.inPort, Bus.control, unitIndex_of_lt unit]
  · simp only [inPort_eq_port, control_eq_port, port_setInPort, port_setControl]
    refine ⟨?_, ?_, fun h => by rw [if_neg h], ?_, ?_, fun h => by rw [if_neg h], ?_⟩
    · rcases b.port p kind u port with _ | _ | _ <;> simp
    · rcases b.port p kind u port with _ | _ | _ <;> simp
    · split
      · next h => cases h; rcases b.port p kind u port with _ | _ | _ <;> rfl
      · rfl
    · rcases b.port p kind u port with _ | _ | _ <;> simp
    · split
      · next h => cases h; rcases b.port p kind u port with _ | _ | _ <;> rfl
      · rfl

end Sys2Proof.Machine
end

section
/-! PROOFS. The family of the encoding: the decoder and the opcode map (R65 to R74), the words and the units that are
refused (R69 to R71), and `TICK_ALL` (R79). -/

namespace Sys2Proof

/-! ### The rows of the opcode map (R65, R68) -/

/-- R68: a word that selects a row agrees with it, field by field, under the row's mask. -/
theorem fields_of_selects {r : Row} {w : Word} (h : r.selects w = true) :
    w.extractLsb' 12 4 &&& r.mask.extractLsb' 12 4 = r.pattern.extractLsb' 12 4 ∧
      w.extractLsb' 0 8 &&& r.mask.extractLsb' 0 8 = r.pattern.extractLsb' 0 8 := by
  rw [Row.selects, beq_iff_eq] at h
  simp only [← BitVec.extractLsb'_and, h, and_self]

theorem mask_op {r : Row} (h : r ∈ opcodeMap) : r.mask.extractLsb' 12 4 = BitVec.allOnes 4 := by
  revert r
  decide

/-- R65: no row leaves a bit of `op` open. -/
theorem op_of_selects {r : Row} {w : Word} (mem : r ∈ opcodeMap) (h : r.selects w = true) :
    w.extractLsb' 12 4 = r.pattern.extractLsb' 12 4 := by
  obtain ⟨op, -⟩ := fields_of_selects h
  rwa [mask_op mem, BitVec.and_allOnes] at op

theorem row_eq_of_op_eq :
    ∀ r ∈ opcodeMap, ∀ q ∈ opcodeMap, r.pattern.extractLsb' 12 4 = q.pattern.extractLsb' 12 4 → q = r := by
  decide

/-- R74: no word meets two rows. -/
theorem row_unique {r q : Row} {w : Word} (hr : r ∈ opcodeMap) (hq : q ∈ opcodeMap) (h : r.selects w = true)
    (h' : q.selects w = true) : q = r :=
  row_eq_of_op_eq r hr q hq ((op_of_selects hr h).symm.trans (op_of_selects hq h'))

/-! ### The word a row's command has (R65, R67, R68) -/

theorem commandWord_of_selects {r : Row} {w : Word} (mem : r ∈ opcodeMap) (h : r.selects w = true) :
    commandWord (r.pattern.extractLsb' 12 4) (unitField w) (w.extractLsb' 0 8) = w := by
  rw [← op_of_selects mem h]
  exact (word_eq_commandWord w).symm

/-- A row whose mask closes all of `imm`. -/
theorem commandWord_of_selects_imm {r : Row} {w : Word} (mem : r ∈ opcodeMap) (h : r.selects w = true)
    (closed : r.mask.extractLsb' 0 8 = BitVec.allOnes 8) :
    commandWord (r.pattern.extractLsb' 12 4) (unitField w) (r.pattern.extractLsb' 0 8) = w := by
  obtain ⟨-, imm⟩ := fields_of_selects h
  rw [closed, BitVec.and_allOnes] at imm
  rw [← imm]
  exact commandWord_of_selects mem h

/-- A row whose mask closes the whole word. -/
theorem pattern_of_selects {r : Row} {w : Word} (h : r.selects w = true) (closed : r.mask = BitVec.allOnes 16) :
    r.pattern = w := by
  rw [Row.selects, beq_iff_eq, closed, BitVec.and_allOnes] at h
  exact h.symm

theorem unitField_le (w : Word) : unitField w ≤ 15 := Nat.le_of_lt_succ (BitVec.isLt _)

theorem toBit_ofBit (b : Bool) : (FmMode.ofBit b).toBit = b := by cases b <;> rfl

/-- R67: an `imm` that is zero but for the mode bit is that bit. -/
theorem eq_modeImm_of_masked {imm : BitVec 8} (h : imm &&& 0xFE#8 = 0#8) :
    imm = 0#7 ++ BitVec.ofBool (imm.getLsbD 0) := by
  revert imm
  decide

theorem encode_setMode_of_selects {w : Word} (h : rowSetMode.selects w = true) :
    encode (.setMode (unitField w) (modeField w)) = w := by
  obtain ⟨-, imm⟩ := fields_of_selects h
  have bit : (w.extractLsb' 0 8).getLsbD 0 = w.getLsbD 0 := by simp
  have word := commandWord_of_selects (by decide) h
  rwa [eq_modeImm_of_masked imm, bit, ← toBit_ofBit (w.getLsbD 0)] at word

/-! ### What the decoder answers (R68 to R70, R73, R74) -/

/-- What the decoder may answer for a word: the command whose word it is, or, when it selects no row, the error R69 or R70
names. -/
def DecodeAnswer (w : Word) : Except DecodeError Instr → Prop
  | .ok i => i.wellFormed = true ∧ encode i = w
  | .error e => (∀ r ∈ opcodeMap, r.selects w ≠ true) ∧ e = if opField w ≤ 8 then .mustBeZero else .reservedOpcode

theorem decodeAnswer_decode (w : Word) : DecodeAnswer w (decode w) := by
  have unit := decide_eq_true (unitField_le w)
  have row {c : Prop} {_ : Decidable c} {x y} (hx : c → DecodeAnswer w x) (hy : ¬c → DecodeAnswer w y) :
      DecodeAnswer w (if c then x else y) := iteInduction hx hy
  unfold decode
  refine row (fun nop => ⟨rfl, pattern_of_selects nop rfl⟩) fun nop => ?_
  refine row (fun osc => ⟨unit, commandWord_of_selects_imm (r := rowTickOsc) (by decide) osc rfl⟩) fun osc => ?_
  refine row (fun gain => ⟨unit, commandWord_of_selects_imm (r := rowTickGain) (by decide) gain rfl⟩) fun gain => ?_
  refine row (fun bern => ⟨unit, commandWord_of_selects_imm (r := rowTickBern) (by decide) bern rfl⟩) fun bern => ?_
  refine row (fun logic => ⟨unit, commandWord_of_selects_imm (r := rowTickLogic) (by decide) logic rfl⟩) fun logic => ?_
  refine row (fun mode => ⟨unit, encode_setMode_of_selects mode⟩) fun mode => ?_
  refine row (fun save => ⟨unit, commandWord_of_selects_imm (r := rowSaveCfg) (by decide) save rfl⟩) fun save => ?_
  refine row (fun load => ⟨unit, commandWord_of_selects_imm (r := rowLoadCfg) (by decide) load rfl⟩) fun load => ?_
  refine row (fun reset => ⟨rfl, pattern_of_selects reset rfl⟩) fun reset => ?_
  have none : ∀ r ∈ opcodeMap, r.selects w ≠ true := by
    simp [opcodeMap, nop, osc, gain, bern, logic, mode, save, load, reset]
  exact row (fun op => ⟨none, (if_pos op).symm⟩) fun op => ⟨none, (if_neg op).symm⟩

theorem encode_of_decode {w : Word} {i : Instr} (h : decode w = .ok i) : i.wellFormed = true ∧ encode i = w := by
  have answer := decodeAnswer_decode w
  rwa [h] at answer

theorem decode_error {w : Word} {e : DecodeError} (h : decode w = .error e) :
    (∀ r ∈ opcodeMap, r.selects w ≠ true) ∧ e = if opField w ≤ 8 then .mustBeZero else .reservedOpcode := by
  have answer := decodeAnswer_decode w
  rwa [h] at answer

/-- Settles O3: a word that selects a row has the row's fixed fields, and the decoder reads the others off it. -/
theorem encodeReadsBackDecode : Obligations.EncodeReadsBackDecode := fun _ _ => encode_of_decode

theorem row_mem (i : Instr) : i.row ∈ opcodeMap := by
  cases i <;> simp [Instr.row, opcodeMap]

theorem row_selects_encode (i : Instr) : Laws.RowOf.Statement i := by
  cases i with
  | nop => exact Laws.RowOf.nop
  | tickOsc u => exact Laws.RowOf.tickOsc u
  | tickGain u => exact Laws.RowOf.tickGain u
  | tickBern u => exact Laws.RowOf.tickBern u
  | tickLogic u => exact Laws.RowOf.tickLogic u
  | setMode u m => exact Laws.RowOf.setMode u m
  | saveCfg u => exact Laws.RowOf.saveCfg u
  | loadCfg u => exact Laws.RowOf.loadCfg u
  | reset => exact Laws.RowOf.reset

/-- A word that decodes selects the row of its command. -/
theorem row_selects_of_decode {w : Word} {i : Instr} (h : decode w = .ok i) : i.row.selects w = true := by
  obtain ⟨wf, rfl⟩ := encode_of_decode h
  exact row_selects_encode i wf

theorem opField_eq (w : Word) : opField w = w.toNat / 4096 := by
  rw [opField, BitVec.extractLsb'_toNat, Nat.shiftRight_eq_div_pow]
  exact Nat.mod_eq_of_lt (by omega)

theorem decode_of_selects {r : Row} {w : Word} (mem : r ∈ opcodeMap) (h : r.selects w = true) :
    ∃ i, decode w = .ok i ∧ i.row = r := by
  cases answer : decode w with
  | ok i => exact ⟨i, rfl, row_unique mem (row_mem i) h (row_selects_of_decode answer)⟩
  | error e => exact absurd h ((decode_error answer).1 r mem)

theorem decode_of_selects_none {w : Word} (h : ∀ r ∈ opcodeMap, r.selects w ≠ true) :
    decode w = .error (if w.toNat / 4096 ≤ 8 then .mustBeZero else .reservedOpcode) := by
  cases answer : decode w with
  | ok i => exact absurd (row_selects_of_decode answer) (h i.row (row_mem i))
  | error e => rw [(decode_error answer).2, opField_eq]

/-- Settles O4: the decoder answers a command of a row the word selects, and there is one such row at most. -/
theorem decoderFollowsOpcodeMap : Obligations.DecoderFollowsOpcodeMap := fun _ =>
  ⟨fun _ mem meets => ⟨decode_of_selects mem (beq_iff_eq.mpr meets), fun _ mem' meets' =>
      row_unique mem mem' (beq_iff_eq.mpr meets) (beq_iff_eq.mpr meets')⟩,
    fun none => decode_of_selects_none fun r mem h => none r mem (beq_iff_eq.mp h)⟩

/-- Settles O1: each word is the encoding of its command. -/
theorem tableWordsDecode : Obligations.TableWordsDecode :=
  ⟨decode_encode (i := .nop) rfl, decode_encode (i := .tickOsc 3) rfl, decode_encode (i := .tickGain 15) rfl,
    decode_encode (i := .tickBern 0) rfl, decode_encode (i := .tickLogic 10) rfl,
    decode_encode (i := .setMode 1 .linear) rfl, decode_encode (i := .setMode 0 .exponential) rfl,
    decode_encode (i := .saveCfg 4) rfl, decode_encode (i := .loadCfg 1) rfl, decode_encode (i := .reset) rfl⟩

end Sys2Proof

namespace Sys2Proof.Machine

/-! ### Refusals (R69 to R71) -/

theorem step_of_decode_error {s : State} {d : Delivery} {rest : List Delivery} {e : DecodeError}
    (hp : s.pending = d :: rest) (he : decode d.word = .error e) :
    step s = .next ((s.take d rest).refuse .reservedEncoding d.word) := by
  simp only [step, hp, he]

/-- Settles O6: such a word does not decode, and the step refuses it. -/
theorem reservedWordRefuses : Obligations.ReservedWordRefuses := by
  intro s d rest hp none
  obtain ⟨-, illegal⟩ := decoderFollowsOpcodeMap d.word
  exact ⟨_, step_of_decode_error hp (illegal none), rfl, rfl, rfl, rfl, rfl, rfl, rfl, rfl, rfl⟩

/-- How many units there are of the kind a command names one of; `NOP` and `RESET` name none. -/
def Params.unitCount (p : Params) : Instr → Option Nat
  | .nop | .reset => none
  | .tickOsc _ | .setMode _ _ | .saveCfg _ | .loadCfg _ => some p.nOsc
  | .tickGain _ => some p.nGain
  | .tickBern _ => some p.nBern
  | .tickLogic _ => some p.nLogic

/-- R71: the unit is the first thing a command that names one checks. -/
theorem exec_noSuchUnit {s : State} {i : Instr} {n : Nat} (count : s.params.unitCount i = some n) (h : n ≤ i.unit) :
    ∃ t, exec i s = .next t ∧ RefusedWith .noSuchUnit (encode i) s t := by
  cases i with
  | nop | reset => cases count
  | tickOsc u | tickGain u | tickBern u | tickLogic u | setMode u m | saveCfg u | loadCfg u =>
    cases count
    have unit := unitIndex_of_le h
    simp only [Instr.unit] at unit
    simp only [exec, execTickOsc, execTickGain, execTickBern, execTickLogic, execSetMode, execSaveCfg, execLoadCfg,
      tickOsc, tickGain, tickBern, tickLogic, setMode, saveCfg, loadCfg, unit]
    exact settle_error _ _ _

/-- Settles O11: for each of the seven commands that name a unit. -/
theorem unknownUnitRefuses : Obligations.UnknownUnitRefuses := by
  intro s u m
  refine ⟨fun h i hi => ?_, fun h => exec_noSuchUnit rfl h,
    fun h => exec_noSuchUnit rfl h, fun h => exec_noSuchUnit rfl h⟩
  simp only [List.mem_cons, List.not_mem_nil, or_false] at hi
  rcases hi with rfl | rfl | rfl | rfl <;> exact exec_noSuchUnit rfl h

/-! ### `TICK_ALL` (R79) -/

theorem mem_tickAll {p : Params} {i : Instr} :
    i ∈ tickAll p ↔ (∃ u < p.nOsc, .tickOsc u = i) ∨ (∃ u < p.nGain, .tickGain u = i) ∨
      (∃ u < p.nBern, .tickBern u = i) ∨ ∃ u < p.nLogic, .tickLogic u = i := by
  simp [tickAll]

theorem nodup_tickAll (p : Params) : (tickAll p).Nodup := by
  have once {f : Nat → Instr} (inj : ∀ a b, f a = f b → a = b) (n : Nat) : ((List.range n).map f).Nodup :=
    List.nodup_range.map fun _ _ => inj _ _
  simp only [tickAll, List.nodup_append]
  refine ⟨⟨⟨once (by simp) _, once (by simp) _, ?_⟩, once (by simp) _, ?_⟩, once (by simp) _, ?_⟩ <;>
    simp [or_imp, forall_and]

/-- Settles O58: the ticks of each kind run through the numbers below its count. -/
theorem tickAllTicksEveryUnit : Obligations.TickAllTicksEveryUnit := by
  intro p u
  refine ⟨?_, ?_, ?_, ?_, ?_, nodup_tickAll p⟩
  · simp [mem_tickAll]
  · simp [mem_tickAll]
  · simp [mem_tickAll]
  · simp [mem_tickAll]
  · simp [tickAll, Nat.add_assoc]

end Sys2Proof.Machine
end

section
/-! PROOFS. The family of the encoding, concluded: the assembler (R78, R79). -/

namespace Sys2Proof.Machine

/-! ### Decimal numbers (R78) -/

theorem decimal_ne_nil (n : Nat) : decimal n ≠ [] := Nat.toDigits_ne_nil

theorem isDigit_of_mem_decimal {c : Char} {n : Nat} (h : c ∈ decimal n) : c.isDigit = true :=
  Nat.isDigit_of_mem_toDigits (by decide) (by decide) h

theorem not_mem_decimal {c : Char} (h : c.isDigit = false) (n : Nat) : c ∉ decimal n := fun hc =>
  Bool.false_ne_true (h.symm.trans (isDigit_of_mem_decimal hc))

theorem isBlank_of_mem_decimal {c : Char} {n : Nat} (h : c ∈ decimal n) : isBlank c = false := by
  have space : c ≠ ' ' := fun e => not_mem_decimal (by decide) n (e ▸ h)
  have tab : c ≠ '\t' := fun e => not_mem_decimal (by decide) n (e ▸ h)
  simp [isBlank, space, tab]

theorem readDigits_decDigit {t : List Char} (h : ∀ c ∈ t, c.isDigit = true) (acc : Nat) :
    readDigits decDigit 10 acc t = some (Nat.ofDigitChars 10 t acc) := by
  induction t generalizing acc with
  | nil => rfl
  | cons c t ih =>
    obtain ⟨hc, ht⟩ := List.forall_mem_cons.mp h
    have digit : decDigit c = some (c.toNat - 48) := by
      simp only [Char.isDigit, Bool.and_eq_true, decide_eq_true_eq] at hc
      exact if_pos hc
    rw [readDigits, digit]
    exact ih ht _

/-- A text of digits is no hexadecimal number: it holds no `x`. -/
theorem readNumber_of_digits {t : List Char} (ne : t ≠ []) (h : ∀ c ∈ t, c.isDigit = true) :
    readNumber t = some (Nat.ofDigitChars 10 t 0) := by
  unfold readNumber
  split
  · exact absurd rfl ne
  · exact absurd (h 'x' (by simp)) (by decide)
  · exact readDigits_decDigit h 0

theorem readNumber_decimal (n : Nat) : readNumber (decimal n) = some n :=
  (readNumber_of_digits (decimal_ne_nil n) fun _ => isDigit_of_mem_decimal).trans
    (congrArg some Nat.ofDigitChars_ten_toDigits)

/-! ### Texts without blanks at their ends -/

theorem trimBlanks_eq_self {t : List Char} (first : ∀ c ∈ t.head?, isBlank c = false)
    (last : ∀ c ∈ t.getLast?, isBlank c = false) : trimBlanks t = t := by
  have keep {l : List Char} (h : ∀ c ∈ l.head?, isBlank c = false) : l.dropWhile isBlank = l := by
    cases l with
    | nil => rfl
    | cons c l => exact List.dropWhile_cons_of_neg (by simp [h c rfl])
  rw [trimBlanks, keep first, keep (by simpa using last), List.reverse_reverse]

theorem dropComment_eq_self {t : List Char} (h : ';' ∉ t) : dropComment t = t :=
  List.takeWhile_eq_self_iff.mpr fun _ hc => bne_iff_ne.mpr fun e => h (e ▸ hc)

theorem trimBlanks_space_cons (t : List Char) : trimBlanks (' ' :: t) = trimBlanks t := rfl

theorem head_decimal_append {n : Nat} {t : List Char} : ∀ c ∈ (decimal n ++ t).head?, isBlank c = false := by
  rw [List.head?_append_of_ne_nil _ (decimal_ne_nil n)]
  exact fun _ h => isBlank_of_mem_decimal (List.mem_of_mem_head? h)

theorem getLast_append_decimal {t : List Char} {n : Nat} : ∀ c ∈ (t ++ decimal n).getLast?, isBlank c = false := by
  rw [List.getLast?_append_of_ne_nil _ (decimal_ne_nil n)]
  exact fun _ h => isBlank_of_mem_decimal (List.mem_of_mem_getLast? h)

theorem trimBlanks_decimal (n : Nat) : trimBlanks (decimal n) = decimal n :=
  trimBlanks_eq_self (List.append_nil (decimal n) ▸ head_decimal_append) (getLast_append_decimal (t := []))

/-! ### The operands of a line (R78) -/

theorem comma_not_mem_operand (n : Nat) : ',' ∉ ' ' :: decimal n := by
  simp [not_mem_decimal]

theorem readNumber_operand (n : Nat) : readNumber (trimBlanks (' ' :: decimal n)) = some n := by
  rw [trimBlanks_space_cons, trimBlanks_decimal, readNumber_decimal]

theorem readOperands_one (u : Nat) : readOperands (' ' :: decimal u) = some [u] := by
  have text : trimBlanks (' ' :: decimal u) ≠ [] := by
    rw [trimBlanks_space_cons, trimBlanks_decimal]
    exact decimal_ne_nil u
  rw [readOperands, if_neg text, List.splitOn_eq_singleton (comma_not_mem_operand u)]
  simp [readNumber_operand]

theorem readOperands_two (u v : Nat) :
    readOperands (' ' :: decimal u ++ ',' :: ' ' :: decimal v) = some [u, v] := by
  have text : trimBlanks (' ' :: decimal u ++ ',' :: ' ' :: decimal v) ≠ [] := by
    rw [List.cons_append, trimBlanks_space_cons, trimBlanks_eq_self head_decimal_append]
    · simp
    · simpa using getLast_append_decimal (t := decimal u ++ [',', ' ']) (n := v)
  rw [readOperands, if_neg text, List.splitOn_append_cons_self_of_not_mem (comma_not_mem_operand u),
    List.splitOn_eq_singleton (comma_not_mem_operand v)]
  simp [readNumber_operand]

/-! ### The line of a command is read back (R78) -/

/-- The numbers on the line of a command. -/
def operandsOf : Instr → List Nat
  | .nop | .reset => []
  | .setMode u .exponential => [u, 0]
  | .setMode u .linear => [u, 1]
  | .tickOsc u | .tickGain u | .tickBern u | .tickLogic u | .saveCfg u | .loadCfg u => [u]

theorem trimmed_asmText (i : Instr) : trimBlanks (dropComment (asmText i)) = asmText i := by
  have semicolon : ';' ∉ asmText i := by
    unfold asmText
    split <;> simp [not_mem_decimal]
  rw [dropComment_eq_self semicolon]
  cases i with
  | nop | reset => rfl
  | setMode u m =>
    cases m <;>
    · refine trimBlanks_eq_self (by simp [asmText, isBlank]) ?_
      rw [asmText, List.getLast?_append_of_ne_nil _ (by simp)]
      simp [isBlank]
  | tickOsc u | tickGain u | tickBern u | tickLogic u | saveCfg u | loadCfg u =>
    exact trimBlanks_eq_self (by simp [asmText, isBlank]) getLast_append_decimal

theorem readOperands_asmText (i : Instr) :
    readOperands ((asmText i).dropWhile (!isBlank ·)) = some (operandsOf i) := by
  cases i with
  | nop | reset => rfl
  | setMode u m =>
    cases m with
    | exponential => exact readOperands_two u 0
    | linear => exact readOperands_two u 1
  | tickOsc u | tickGain u | tickBern u | tickLogic u | saveCfg u | loadCfg u => exact readOperands_one u

theorem assembleLine_asmText (p : Params) {i : Instr} (h : i.wellFormed = true) :
    assembleLine p (asmText i) = .ok [i] := by
  have ne : asmText i ≠ [] := by
    unfold asmText
    split <;> simp
  rw [assembleLine, trimmed_asmText, if_neg ne, readOperands_asmText]
  cases i with
  | nop | reset => rfl
  | setMode u m => cases m <;> exact if_pos (of_decide_eq_true h)
  | tickOsc u | tickGain u | tickBern u | tickLogic u | saveCfg u | loadCfg u => exact if_pos (of_decide_eq_true h)

/-! ### What a line can stand for (R78, R79) -/

/-- Everything the assembler can answer: a refusal, a blank line, one command, `TICK_ALL`. -/
inductive AsmAnswer (p : Params) : Except AsmError (List Instr) → Prop where
  | refusal (e : AsmError) : AsmAnswer p (.error e)
  | blank : AsmAnswer p (.ok [])
  | command (i : Instr) (wf : i.wellFormed = true) : AsmAnswer p (.ok [i])
  | tickAll : AsmAnswer p (.ok (tickAll p))

theorem dite_holds {α : Type} {P : α → Prop} {c : Prop} {_ : Decidable c} {t : c → α} {e : ¬c → α}
    (ht : ∀ h, P (t h)) (he : ∀ h, P (e h)) : P (dite c t e) := by
  split
  exacts [ht _, he _]

set_option linter.auxLemma false in
/-- The mnemonics are compared letter by letter, down the tests the match is compiled to: Lean's own case split of this
match is too dear. -/
theorem asmAnswer_assembleLine (p : Params) (line : List Char) : AsmAnswer p (assembleLine p line) := by
  rw [assembleLine]
  generalize trimBlanks (dropComment line) = t
  by_cases empty : t = []
  · rw [if_pos empty]
    exact .blank
  rw [if_neg empty]
  generalize t.takeWhile (!isBlank ·) = name, readOperands _ = operands
  clear empty t line
  unfold assembleLine.match_1
  repeat'
    first
    | exact .refusal _
    | exact .command _ rfl
    | exact .command _ (decide_eq_true ‹_ ≤ 15›)
    | exact .tickAll
    | rintro rfl
    | intro _
    | refine dite_holds (P := AsmAnswer p) ?_ ?_
    | casesm List Char
    | casesm Option _
    | casesm List Nat

theorem wellFormed_of_mem_tickAll {p : Params} (wf : p.wf) {i : Instr} (h : i ∈ tickAll p) : i.wellFormed = true := by
  obtain ⟨⟨-, osc⟩, ⟨-, gain⟩, ⟨-, bern⟩, ⟨-, logic⟩, -⟩ := wf
  rcases mem_tickAll.mp h with ⟨u, lt, rfl⟩ | ⟨u, lt, rfl⟩ | ⟨u, lt, rfl⟩ | ⟨u, lt, rfl⟩ <;>
    exact decide_eq_true (by omega)

/-- Settles O57: the line's operands are read back, and its mnemonic is the command's; a line that is not refused stands
for well-formed commands only. -/
theorem assemblerReadsBackText : Obligations.AssemblerReadsBackText := by
  refine ⟨fun p i => assembleLine_asmText p, fun p line is wf h i hi => ?_⟩
  have answer := asmAnswer_assembleLine p line
  rw [h] at answer
  cases answer with
  | blank => cases hi
  | command j hj => exact List.mem_singleton.mp hi ▸ hj
  | tickAll => exact wellFormed_of_mem_tickAll wf hi

end Sys2Proof.Machine
end

section
/-! PROOFS. The family of the oscillator: one tick of a lane (R85 to R89, R93 to R96), the harmonic sum under the
reference arithmetic (R91 to R93) and the wrapped phase (R88, R97). -/

namespace Sys2Proof.Machine

/-! ### The registers after a tick (R85, R88, R93, R95, R96) -/

theorem oscAfter_phase_active {s : State} {k c : Fin 16} (h : c.val < s.bus.osc[k].lanes) :
    (s.oscAfter k).phase[c] = s.lanePhase k c := by
  rw [State.oscAfter, ofFn_get, if_pos h]

/-- R96: the phase of an inactive lane is a draw. -/
theorem oscAfter_phase_inactive {s : State} {k c : Fin 16} (h : s.bus.osc[k].lanes ≤ c.val) :
    0 ≤ (s.oscAfter k).phase[c].toReal ∧ (s.oscAfter k).phase[c].toReal < 1 := by
  rw [State.oscAfter, ofFn_get, if_neg (Nat.not_lt.mpr h)]
  exact unitOf_range _

theorem oscAfter_out_ch (s : State) (k : Fin 16) : (s.oscAfter k).out.ch = s.bus.osc[k].lanes := by
  rw [State.oscAfter, publish_ch]

theorem oscAfter_cell_active {s : State} {k c : Fin 16} (h : c.val < s.bus.osc[k].lanes) :
    (s.oscAfter k).out.cells[c] = .val (s.laneOutput k c) := by
  rw [State.oscAfter, publish_cell_below _ _ h]

theorem oscAfter_cell_inactive {s : State} {k c : Fin 16} (h : s.bus.osc[k].lanes ≤ c.val) :
    (s.oscAfter k).out.cells[c] = s.osc[k].out.cells[c] := by
  rw [State.oscAfter, publish_cell_beyond _ _ h]

/-- R85: an oscillator whose inputs are in order has 1 to 16 active lanes. -/
theorem OscReady.lanes_bounds {s : State} {k : Fin 16} (h : OscReady s k) :
    1 ≤ s.bus.osc[k].lanes ∧ s.bus.osc[k].lanes ≤ 16 := by
  obtain ⟨⟨-, le⟩, -⟩ := h
  unfold OscBus.lanes
  omega

/-- Settles O27: the tick writes `State.oscAfter` to the unit, register by register. -/
theorem tickOscResult : Obligations.TickOscResult := by
  intro s k unit ready
  obtain ⟨one_le, le⟩ := ready.lanes_bounds
  refine ⟨_, exec_tickOsc_ready unit ready, frame_setOsc s k _, ?_⟩
  rw [osc_setOsc_same, oscAfter_out_ch]
  refine ⟨oscAfter_fmMode s k, rfl, one_le, le, fun c active => ?_, fun c inactive => ?_⟩
  · refine ⟨oscAfter_phase_active active, fun ref => oscAfter_phase_range ref k c, ?_⟩
    rw [oscAfter_phase_active active]
    exact oscAfter_cell_active active
  · obtain ⟨nonneg, lt_one⟩ := oscAfter_phase_inactive inactive
    exact ⟨nonneg, lt_one, oscAfter_cell_inactive inactive⟩

/-! ### A lane by itself, and the lane groups (R86, R87) -/

/-- Settles O36: the new phase and the output of an active lane are functions of what the two ticks agree on. -/
theorem lanesAreIndependent : Obligations.LanesAreIndependent := by
  intro s s' k c c' unit ready ready' params sampleTime sampleRate depth odd even mode phase pitch fm active active'
  have freq_eq : s'.laneFreq k c' = s.laneFreq k c := by
    rw [State.laneFreq, State.laneFreq, params, mode, pitch, fm, depth, sampleRate]
  have phase_eq : s'.lanePhase k c' = s.lanePhase k c := by
    rw [State.lanePhase, State.lanePhase, params, phase, freq_eq, sampleTime]
  have output_eq : s'.laneOutput k c' = s.laneOutput k c := by
    rw [State.laneOutput, State.laneOutput, params, phase_eq, odd, even]
  refine ⟨_, _, exec_tickOsc_ready unit ready, exec_tickOsc_ready (params ▸ unit) ready', ?_⟩
  rw [osc_setOsc_same, osc_setOsc_same, oscAfter_phase_active active, oscAfter_phase_active active',
    oscAfter_cell_active active, oscAfter_cell_active active', phase_eq, output_eq]
  exact ⟨rfl, rfl⟩

/-- R86: the lane is active when its slot is below its group's count. -/
theorem laneInGroups_eq (n : Nat) (c : Fin 16) : laneInGroups n c = decide (c.val < n) := by
  rw [laneInGroups, ← Bool.decide_and, decide_eq_decide, groupsProcessed, groupActive, Config.group]
  omega

/-- R86: a processed group has 1 to 4 active lanes. -/
theorem groupActive_of_lt {n g : Nat} (h : g < groupsProcessed n) : 1 ≤ groupActive n g ∧ groupActive n g ≤ 4 := by
  rw [groupsProcessed, Config.group] at h
  rw [groupActive, Config.group]
  omega

theorem groupActive_of_le {n g : Nat} (h : groupsProcessed n ≤ g) : groupActive n g = 0 := by
  rw [groupsProcessed, Config.group] at h
  rw [groupActive, Config.group]
  omega

/-- R86: four groups of four hold every lane. -/
theorem groupActive_total {n : Nat} (h : n ≤ 16) :
    groupActive n 0 + groupActive n 1 + groupActive n 2 + groupActive n 3 = n := by
  simp only [groupActive, Config.group]
  omega

/-- Settles O37: the groups are an arithmetic of the lane count. -/
theorem groupsCoverActiveLanes : Obligations.GroupsCoverActiveLanes := fun n h =>
  ⟨laneInGroups_eq n, fun _ => groupActive_of_lt, fun _ => groupActive_of_le, groupActive_total h⟩

/-! ### The harmonic sum under the reference arithmetic (R91 to R93) -/

theorem toReal_foldl_refAdd (term : Nat → Number) (l : List Nat) (x : Number) :
    (l.foldl (fun acc i => refAdd acc (term i)) x).toReal = x.toReal + (l.map fun i => (term i).toReal).sum := by
  induction l generalizing x with
  | nil => simp
  | cons i l ih => rw [List.foldl_cons, ih, toReal_refAdd, List.map_cons, List.sum_cons, add_assoc]

theorem toReal_harmonicTerm (p o e : Number) (i : Nat) :
    (harmonicTerm numRef p o e i).toReal =
      (harmonicWeight o e i).toReal * Real.sin (2 * Real.pi * p.toReal * i) / i := by
  rw [harmonicTerm, numRef_div, numRef_mul, toReal_refDiv, toReal_refMul, toReal_sinTurn, toReal_rat, Rat.cast_natCast]

/-- R91, with no short cut: the fundamental and the terms of harmonics 2 to 8. -/
theorem toReal_hsum (p o e : Number) :
    (hsum numRef p o e).toReal = Real.sin (2 * Real.pi * p.toReal) +
      (harmonicIndices.map fun i => (harmonicTerm numRef p o e i).toReal).sum := by
  have long : hsum numRef p o e = harmonicSum numRef p o e := if_neg fun ⟨short, _⟩ => Bool.false_ne_true short
  rw [long, harmonicSum, numRef_add, toReal_foldl_refAdd, toReal_sinTurn, Nat.cast_one, mul_one]

/-- Settles O31: the seven terms, each with its weight. -/
theorem harmonicSumTerms : Obligations.HarmonicSumTerms := by
  intro phase odd even
  have angle (i : Nat) : 2 * Real.pi * phase.toReal * i = (2 * i) * Real.pi * phase.toReal := by ring
  rw [toReal_hsum]
  simp only [toReal_harmonicTerm, angle, harmonicIndices, harmonicWeight, List.map_cons, List.map_nil, List.sum_cons,
    List.sum_nil]
  norm_num
  ring

/-- A weight is one of the two. -/
theorem harmonicWeight_holds {P : Number → Prop} {o e : Number} (ho : P o) (he : P e) (i : Nat) :
    P (harmonicWeight o e i) := by
  unfold harmonicWeight
  split
  exacts [he, ho]

/-- R92: without weights every harmonic vanishes. -/
theorem toReal_hsum_of_zero_weights {p o e : Number} (ho : o.toReal = 0) (he : e.toReal = 0) :
    (hsum numRef p o e).toReal = Real.sin (2 * Real.pi * p.toReal) := by
  have term (i : Nat) : (harmonicTerm numRef p o e i).toReal = 0 := by
    have weight : (harmonicWeight o e i).toReal = 0 := harmonicWeight_holds (P := (·.toReal = 0)) ho he i
    rw [toReal_harmonicTerm, weight, zero_mul, zero_div]
  rw [toReal_hsum]
  simp [term]

/-- R92: an arithmetic takes the short path or the long one. -/
theorem hsum_cases (N : Numerics) (p o e : Number) :
    hsum N p o e = sinTurn N p 1 ∨ hsum N p o e = harmonicSum N p o e := by
  unfold hsum
  split
  exacts [.inl rfl, .inr rfl]

/-- Settles O33: the reference sum loses its harmonics, and the implementation's is one of its two paths. -/
theorem shortCircuitOfZeroWeights : Obligations.ShortCircuitOfZeroWeights := fun p o e ho he =>
  ⟨toReal_hsum_of_zero_weights ho he, hsum_cases numImpl p o e⟩

/-- R93: harmonic `i` contributes at most `1/i`. -/
theorem abs_toReal_harmonicTerm_le {p o e : Number} (ho : |o.toReal| ≤ 1) (he : |e.toReal| ≤ 1) (i : Nat) :
    |(harmonicTerm numRef p o e i).toReal| ≤ 1 / i := by
  have weight : |(harmonicWeight o e i).toReal| ≤ 1 := harmonicWeight_holds (P := fun w => |w.toReal| ≤ 1) ho he i
  rw [toReal_harmonicTerm, abs_div, abs_mul, Nat.abs_cast]
  gcongr
  exact mul_le_one₀ weight (abs_nonneg _) (Real.abs_sin_le_one _)

/-- R93: `761/280` is the sum of `1/i` for `i` in 1..8. -/
theorem abs_toReal_hsum_le {p o e : Number} (ho : |o.toReal| ≤ 1) (he : |e.toReal| ≤ 1) :
    |(hsum numRef p o e).toReal| ≤ 761 / 280 := by
  have harmonics : |(harmonicIndices.map fun i => (harmonicTerm numRef p o e i).toReal).sum| ≤
      (harmonicIndices.map fun i : Nat => 1 / (i : ℝ)).sum := by
    refine (List.le_sum_of_subadditive _ abs_zero.le abs_add_le _).trans ?_
    rw [List.map_map]
    exact List.sum_le_sum fun i _ => abs_toReal_harmonicTerm_le ho he i
  calc |(hsum numRef p o e).toReal|
      ≤ 1 + (harmonicIndices.map fun i : Nat => 1 / (i : ℝ)).sum := by
        rw [toReal_hsum]
        exact (abs_add_le _ _).trans (add_le_add (Real.abs_sin_le_one _) harmonics)
    _ = 761 / 280 := by norm_num [harmonicIndices]

/-- R93: an output within the limit is not clamped. -/
theorem toReal_oscOutput_of_abs_le {scale p o e : Number} (h : |scale.toReal * (hsum numRef p o e).toReal| ≤ 10) :
    (oscOutput numRef scale p o e).toReal = scale.toReal * (hsum numRef p o e).toReal := by
  obtain ⟨lower, upper⟩ := abs_le.mp h
  rw [← toReal_refMul] at lower upper ⊢
  exact toReal_clamp_of_mem (by simpa [Config.oscOutLimit] using lower) (by simpa [Config.oscOutLimit] using upper)

/-- Settles O32: the terms are bounded one by one, and `10 * 280/761` times that bound is the limit. -/
theorem harmonicSumBound : Obligations.HarmonicSumBound := by
  intro p o e ho0 ho1 he0 he1
  have bound : |(hsum numRef p o e).toReal| ≤ 761 / 280 :=
    abs_toReal_hsum_le (abs_le.mpr ⟨by linarith, ho1⟩) (abs_le.mpr ⟨by linarith, he1⟩)
  refine ⟨bound, fun scale small => toReal_oscOutput_of_abs_le ?_⟩
  calc |scale.toReal * (hsum numRef p o e).toReal|
      ≤ 10 * 280 / 761 * (761 / 280) := by rw [abs_mul]; gcongr
    _ = 10 := by norm_num

/-! ### The wrapped phase (R88, R97) -/

/-- Settles O35: each row is a fact of the fraction. -/
theorem staticPhase : Obligations.StaticPhase := by
  refine ⟨toReal_wrapPhase, fun ph f dt nonneg lt_one still => ?_, fun ph f dt n whole => ?_,
    fun ph ph' f dt n cycles => ?_⟩
  · have advance : f.toReal * dt.toReal = 0 := mul_eq_zero.mpr still
    rw [toReal_wrapPhase, advance, add_zero, Int.fract_eq_self]
    exact ⟨nonneg, lt_one⟩
  · rw [toReal_wrapPhase, whole, Int.fract_intCast]
  · rw [toReal_wrapPhase, toReal_wrapPhase, cycles, add_right_comm, Int.fract_add_intCast]

end Sys2Proof.Machine
end

section
/-! PROOFS. The family of the Frequency Mapper: the properties of `FREQ`, row by row (R104). -/

namespace Sys2Proof.Machine

/-! ### The clamp (R100 to R102), for either numerics record -/

theorem freq_exponential_bounds {N : Numerics} {sr : Number} (nonneg : 0 ≤ (freqBound N sr).toReal)
    (base pitch fm d : Number) :
    0 ≤ (freq N base .exponential pitch fm d sr).toReal ∧
      (freq N base .exponential pitch fm d sr).toReal ≤ (freqBound N sr).toReal := by
  rw [toReal_freq_exponential]
  exact ⟨le_min (le_max_right _ _) nonneg, min_le_right _ _⟩

theorem freq_linear_bounds {N : Numerics} {sr : Number} (nonneg : 0 ≤ (freqBound N sr).toReal)
    (base pitch fm d : Number) :
    -(freqBound N sr).toReal ≤ (freq N base .linear pitch fm d sr).toReal ∧
      (freq N base .linear pitch fm d sr).toReal ≤ (freqBound N sr).toReal := by
  rw [toReal_freq_linear]
  exact ⟨le_min (le_max_right _ _) (neg_le_self nonneg), min_le_right _ _⟩

/-- The clamp is monotone, whatever the sign of the bound. -/
theorem toReal_freq_linear_mono {N : Numerics} {base x y fm d sr : Number}
    (raw : (freqLinRaw N base x fm d).toReal ≤ (freqLinRaw N base y fm d).toReal) :
    (freq N base .linear x fm d sr).toReal ≤ (freq N base .linear y fm d sr).toReal := by
  rw [toReal_freq_linear, toReal_freq_linear]
  exact min_le_min_right _ (max_le_max_right _ raw)

/-! ### The reference arithmetic (R10) -/

/-- R100. -/
theorem toReal_freqBound (sr : Number) : (freqBound numRef sr).toReal = sr.toReal / 16 := by
  simp [freqBound, Config.freqDiv, toReal_refDiv]

/-- R101, before the clamp. -/
theorem toReal_freqExpRaw (base pitch fm d : Number) :
    (freqExpRaw numRef base pitch fm d).toReal =
      base.toReal * (2 : ℝ) ^ (pitch.toReal + fm.toReal * d.toReal) := by
  simp only [freqExpRaw, numRef_mul, numRef_exp2, numRef_add, toReal_refMul, toReal_refExp2, toReal_refAdd]

/-- R102, before the clamp. -/
theorem toReal_freqLinRaw (base pitch fm d : Number) :
    (freqLinRaw numRef base pitch fm d).toReal =
      base.toReal * (2 : ℝ) ^ pitch.toReal + base.toReal * (fm.toReal * d.toReal) := by
  simp only [freqLinRaw, numRef_mul, numRef_exp2, numRef_add, toReal_refMul, toReal_refExp2, toReal_refAdd]
  ring

/-- R102: the through-zero offset vanishes without modulation. -/
theorem toReal_freqLinRaw_of_unmodulated {fm d : Number} (unmod : fm.toReal * d.toReal = 0) (base pitch : Number) :
    (freqLinRaw numRef base pitch fm d).toReal = base.toReal * (2 : ℝ) ^ pitch.toReal := by
  rw [toReal_freqLinRaw, unmod, mul_zero, add_zero]

section
variable {base pitch fm d sr : Number} (pos : 0 < base.toReal)
include pos

/-- R101: below the bound the clamp does nothing. -/
theorem toReal_freq_exponential_of_le
    (below : base.toReal * (2 : ℝ) ^ (pitch.toReal + fm.toReal * d.toReal) ≤ sr.toReal / 16) :
    (freq numRef base .exponential pitch fm d sr).toReal =
      base.toReal * (2 : ℝ) ^ (pitch.toReal + fm.toReal * d.toReal) := by
  rw [toReal_freq_exponential, toReal_freqExpRaw, toReal_freqBound, max_eq_left (by positivity), min_eq_left below]

/-- R102: without modulation the frequency is positive, so that the lower bound does nothing either. -/
theorem toReal_freq_linear_of_unmodulated_of_le (unmod : fm.toReal * d.toReal = 0)
    (below : base.toReal * (2 : ℝ) ^ pitch.toReal ≤ sr.toReal / 16) :
    (freq numRef base .linear pitch fm d sr).toReal = base.toReal * (2 : ℝ) ^ pitch.toReal := by
  have positive : 0 < base.toReal * (2 : ℝ) ^ pitch.toReal := by positivity
  rw [toReal_freq_linear, toReal_freqLinRaw_of_unmodulated unmod, toReal_freqBound, max_eq_left (by linarith),
    min_eq_left below]

/-- R104, last row: without modulation both modes give the pitch in Hz. -/
theorem toReal_freq_of_unmodulated_of_le (unmod : fm.toReal * d.toReal = 0)
    (below : base.toReal * (2 : ℝ) ^ pitch.toReal ≤ sr.toReal / 16) :
    (freq numRef base .exponential pitch fm d sr).toReal = base.toReal * (2 : ℝ) ^ pitch.toReal ∧
      (freq numRef base .linear pitch fm d sr).toReal = base.toReal * (2 : ℝ) ^ pitch.toReal := by
  refine ⟨?_, toReal_freq_linear_of_unmodulated_of_le pos unmod below⟩
  rw [toReal_freq_exponential_of_le pos (by rwa [unmod, add_zero]), unmod, add_zero]

/-- R104: pitch 0 is the base frequency. -/
theorem toReal_freq_of_pitch_zero (zero : pitch.toReal = 0) (unmod : fm.toReal * d.toReal = 0)
    (below : base.toReal ≤ sr.toReal / 16) :
    (freq numRef base .exponential pitch fm d sr).toReal = base.toReal ∧
      (freq numRef base .linear pitch fm d sr).toReal = base.toReal := by
  have hz : base.toReal * (2 : ℝ) ^ pitch.toReal = base.toReal := by rw [zero, Real.rpow_zero, mul_one]
  simpa only [hz] using toReal_freq_of_unmodulated_of_le pos unmod (hz.trans_le below)

/-- R104: the linear mode without modulation is non-decreasing in the pitch, clamped or not. -/
theorem toReal_freq_linear_mono_pitch {x y : Number} (unmod : fm.toReal * d.toReal = 0)
    (le : x.toReal ≤ y.toReal) :
    (freq numRef base .linear x fm d sr).toReal ≤ (freq numRef base .linear y fm d sr).toReal := by
  refine toReal_freq_linear_mono ?_
  rw [toReal_freqLinRaw_of_unmodulated unmod, toReal_freqLinRaw_of_unmodulated unmod]
  exact mul_le_mul_of_nonneg_left (Real.rpow_le_rpow_of_exponent_le one_le_two le) pos.le

/-- R104: `2^(x+1) = 2 * 2^x`; where the upper octave is below the bound, so is the lower one. -/
theorem toReal_freq_exponential_octave {up : Number} (octave : up.toReal = pitch.toReal + 1)
    (below : base.toReal * (2 : ℝ) ^ (up.toReal + fm.toReal * d.toReal) ≤ sr.toReal / 16) :
    (freq numRef base .exponential up fm d sr).toReal =
      2 * (freq numRef base .exponential pitch fm d sr).toReal := by
  have double : base.toReal * (2 : ℝ) ^ (up.toReal + fm.toReal * d.toReal) =
      2 * (base.toReal * (2 : ℝ) ^ (pitch.toReal + fm.toReal * d.toReal)) := by
    rw [octave, add_right_comm, Real.rpow_add_one two_ne_zero]
    ring
  have lower : 0 < base.toReal * (2 : ℝ) ^ (pitch.toReal + fm.toReal * d.toReal) := by positivity
  rw [toReal_freq_exponential_of_le pos below, toReal_freq_exponential_of_le pos (by linarith), double]

end

/-- R104, the worked example: the same modulation goes through zero in the linear mode only. -/
theorem freq_workedExample :
    freq numRef (.rat 200) .exponential (.rat 1) (.rat (-3)) (.rat 1) (.rat 48000) = .rat 50 ∧
      freq numRef (.rat 200) .linear (.rat 1) (.rat (-3)) (.rat 1) (.rat 48000) = .rat (-200) := by
  decide +kernel

/-- Settles O30: a lemma for each row of R104. -/
theorem frequencyMapperProperties : Obligations.FrequencyMapperProperties := by
  have unmod_of_depth {fm d : Number} (hd : d.toReal = 0) : fm.toReal * d.toReal = 0 := by rw [hd, mul_zero]
  refine ⟨fun _ _ _ _ _ zero pos below unmod => toReal_freq_of_pitch_zero pos zero unmod below,
    fun _ _ _ _ _ _ depth pos le => toReal_freq_linear_mono_pitch pos (unmod_of_depth depth) le,
    fun n base pitch fm d _ nonneg => ?_,
    fun _ _ _ _ _ _ octave pos below => toReal_freq_exponential_octave pos octave below,
    fun _ _ _ _ _ depth pos below => toReal_freq_of_unmodulated_of_le pos (unmod_of_depth depth) below,
    freq_workedExample⟩
  exact ⟨freq_exponential_bounds nonneg base pitch fm d, freq_linear_bounds nonneg base pitch fm d⟩

end Sys2Proof.Machine
end

section
/-! PROOFS. The family of the gain stage (R105 to R113): what each check of its tick looks for, the refusals they
make (R107, R108, R141, R143), the tick that runs, and the corner cases of its arithmetic. -/

namespace Sys2Proof.Machine

/-! ### The checks of `TICK_GAIN` (R107, R108, R139, R141) -/

/-- R9: a range condition holds of a value exactly when the value is a number that meets it. -/
theorem test_iff {f : Number → Bool} {v : Value} : v.test f = true ↔ ∃ x, v = .fin x ∧ f x = true := by
  cases v <;> simp [Value.test]

theorem connected_iff {p : InPort} : p.connected = true ↔ 1 ≤ p.ch := decide_eq_true_iff

/-- R105: the lanes of a gain tick are those below the signal's channel count. -/
theorem lt_gainLanes_iff {s : State} {k c : Fin 16} :
    c.val < s.bus.gain[k].lanes ↔ (c.val : Int) < s.bus.gain[k].input.ch := Int.lt_toNat

theorem gainChannelsOk_iff {s : State} {k : Fin 16} :
    s.gainChannelsOk k = true ↔ ∀ p ∈ [s.bus.gain[k].input, s.bus.gain[k].cv], 0 ≤ p.ch ∧ p.ch ≤ 16 := by
  simp [State.gainChannelsOk, chOk_iff]

theorem gainControlBad_eq_false_iff {s : State} {k : Fin 16} :
    s.gainControlBad k = false ↔
      (∀ l, s.bus.gain[k].level = .fin l → 0 ≤ l.toReal) ∧ ∀ e, s.bus.gain[k].curve = .fin e → 0 ≤ e.toReal := by
  simp only [State.gainControlBad, Bool.or_eq_false_iff, test_eq_false_iff, lt_eq_false_iff, toReal_rat, Rat.cast_zero]

theorem levelZeroPow_iff {s : State} {k : Fin 16} :
    s.levelZeroPow k = true ↔
      (∃ l, s.bus.gain[k].level = .fin l ∧ l.toReal = 0) ∧ ∃ e, s.bus.gain[k].curve = .fin e ∧ e.toReal = 0 := by
  simp only [State.levelZeroPow, Bool.and_eq_true, test_iff, eq_iff, toReal_rat, Rat.cast_zero]

theorem cvZeroPow_iff {s : State} {k c : Fin 16} :
    s.cvZeroPow k c = true ↔
      1 ≤ s.bus.gain[k].cv.ch ∧ (∃ e, s.bus.gain[k].curve = .fin e ∧ e.toReal = 0) ∧
        ∃ v f, s.gainCv k c = .fin v ∧ s.bus.gain[k].offset = .fin f ∧
          (cvBase s.params.numerics v f).toReal = 0 := by
  simp only [State.cvZeroPow, State.cvLaneBase, Bool.and_eq_true, connected_iff, test_iff, isFinite_iff, eq_iff,
    toReal_rat, Rat.cast_zero, and_assoc]
  refine and_congr_right fun _ => and_congr_right fun _ => ⟨?_, ?_⟩
  · rintro ⟨⟨v, cv⟩, ⟨f, offset⟩, base⟩
    rw [cv, offset] at base
    exact ⟨v, f, cv, offset, base⟩
  · rintro ⟨v, f, cv, offset, base⟩
    rw [cv, offset]
    exact ⟨⟨v, rfl⟩, ⟨f, rfl⟩, base⟩

/-- R107, R108: both ways to a power of 0 by 0 need the curve 0. -/
theorem gainZeroPow_iff {s : State} {k : Fin 16} :
    s.gainZeroPow k = true ↔
      (∃ e, s.bus.gain[k].curve = .fin e ∧ e.toReal = 0) ∧
        ((∃ l, s.bus.gain[k].level = .fin l ∧ l.toReal = 0) ∨
          1 ≤ s.bus.gain[k].cv.ch ∧ ∃ (c : Fin 16) (v f : Number), (c.val : Int) < s.bus.gain[k].input.ch ∧
            s.gainCv k c = .fin v ∧ s.bus.gain[k].offset = .fin f ∧
            (cvBase s.params.numerics v f).toReal = 0) := by
  simp only [State.gainZeroPow, Bool.or_eq_true, decide_eq_true_eq, levelZeroPow_iff, cvZeroPow_iff, lt_gainLanes_iff]
  constructor
  · rintro (⟨level, curve⟩ | ⟨c, lane, conn, curve, v, f, base⟩)
    · exact ⟨curve, .inl level⟩
    · exact ⟨curve, .inr ⟨conn, c, v, f, lane, base⟩⟩
  · rintro ⟨curve, level | ⟨conn, c, v, f, lane, base⟩⟩
    · exact .inl ⟨level, curve⟩
    · exact .inr ⟨c, lane, conn, curve, v, f, base⟩

/-- R112: the controls `TICK_GAIN` reads, and its lanes below the lane count; those of the CV when it is connected. -/
theorem gainReadsFinite_iff {s : State} {k : Fin 16} :
    s.gainReadsFinite k = true ↔
      (∀ v ∈ [s.bus.gain[k].level, s.bus.gain[k].curve, s.bus.gain[k].offset], v.isFinite = true) ∧
        ∀ c : Fin 16, (c.val : Int) < s.bus.gain[k].input.ch →
          (s.gainIn k c).isFinite = true ∧ (1 ≤ s.bus.gain[k].cv.ch → (s.gainCv k c).isFinite = true) := by
  simp only [State.gainReadsFinite, Bool.and_eq_true, decide_eq_true_eq, connected_iff, lt_gainLanes_iff,
    List.forall_mem_cons, List.not_mem_nil, false_imp_iff, implies_true, true_and, and_assoc]

/-! ### Refusing the tick (R143) -/

/-- R143: a power of 0 by 0 is the third thing `TICK_GAIN` looks for. -/
theorem tickGain_zeroPowZero {s : State} {k : Fin 16} (unit : k.val < s.params.nGain)
    (ch : s.gainChannelsOk k = true) (control : s.gainControlBad k = false) (pow : s.gainZeroPow k = true) :
    tickGain k.val s = .error .zeroPowZero := by
  simp only [tickGain, unitIndex_of_lt unit, ch, control, pow, Bool.true_eq_false, Bool.false_eq_true, if_false,
    if_true]

/-- R143: the finiteness check is the last of `TICK_GAIN`. -/
theorem tickGain_nonFinite {s : State} {k : Fin 16} (unit : k.val < s.params.nGain)
    (ch : s.gainChannelsOk k = true) (control : s.gainControlBad k = false) (pow : s.gainZeroPow k = false)
    (finite : s.gainReadsFinite k = false) : tickGain k.val s = .error .nonFinite := by
  simp only [tickGain, unitIndex_of_lt unit, ch, control, pow, finite, Bool.true_eq_false, Bool.false_eq_true, if_false,
    if_true]

theorem exec_tickGain_error {s : State} {u : Nat} {r : RefuseReason} (body : tickGain u s = .error r) :
    ∃ t, exec (.tickGain u) s = .next t ∧ RefusedWith r (encode (.tickGain u)) s t := by
  rw [exec, execTickGain, body]
  exact settle_error _ _ _

/-- Settles O23: counts and ranges are in order, and the curve is 0 with one of the two bases that the third check looks
for. -/
theorem zeroPowZeroRefuses : Obligations.ZeroPowZeroRefuses := by
  intro s k e unit counts curve curve_zero level_nonneg base_zero
  have curve_nonneg : ∀ e', s.bus.gain[k].curve = .fin e' → 0 ≤ e'.toReal := by
    intro e' curve'
    obtain rfl : e = e' := Value.fin.inj (curve.symm.trans curve')
    exact curve_zero.ge
  exact exec_tickGain_error (tickGain_zeroPowZero unit (gainChannelsOk_iff.mpr counts)
    (gainControlBad_eq_false_iff.mpr ⟨level_nonneg, curve_nonneg⟩)
    (gainZeroPow_iff.mpr ⟨⟨e, curve, curve_zero⟩, base_zero⟩))

/-- Settles O25: the hypotheses pass the earlier checks of R143, and a value that is not finite fails the last one. -/
theorem nonFiniteGainRefuses : Obligations.NonFiniteGainRefuses := by
  intro s k unit counts level_nonneg curve_nonneg base_ne_zero nonFinite
  have pow : s.gainZeroPow k = false := by
    rw [← Bool.not_eq_true, gainZeroPow_iff]
    rintro ⟨⟨e, curve, curve_zero⟩, ⟨l, level, level_zero⟩ | ⟨conn, c, v, f, lane, cv, offset, base_zero⟩⟩
    · obtain ⟨level_ne_zero, -⟩ := base_ne_zero e curve curve_zero
      exact level_ne_zero l level level_zero
    · obtain ⟨-, cvBase_ne_zero⟩ := base_ne_zero e curve curve_zero
      exact cvBase_ne_zero conn c v f lane cv offset base_zero
  have finite : s.gainReadsFinite k = false := by
    rw [← Bool.not_eq_true, gainReadsFinite_iff]
    rintro ⟨controls, lanes⟩
    rcases nonFinite with ⟨v, mem, bad⟩ | ⟨c, lane, bad⟩
    · simp [controls v mem] at bad
    · obtain ⟨signal, cv⟩ := lanes c lane
      rcases bad with bad | ⟨conn, bad⟩
      · simp [signal] at bad
      · simp [cv conn] at bad
  exact exec_tickGain_error (tickGain_nonFinite unit (gainChannelsOk_iff.mpr counts)
    (gainControlBad_eq_false_iff.mpr ⟨level_nonneg, curve_nonneg⟩) pow finite)

/-! ### The value of a lane (R106, R108, R109) -/

/-- R108. -/
theorem toReal_cvBase (cv off : Number) :
    (cvBase numRef cv off).toReal = min (max ((cv.toReal + off.toReal) / 10) 0) 1 := by
  simp [cvBase, Config.cvScale, toReal_clamp, toReal_refDiv, toReal_refAdd]

/-- R109. -/
theorem toReal_gainOutput (x g kc : Number) :
    (gainOutput numRef x g kc).toReal = min (max (x.toReal * g.toReal * kc.toReal) (-10)) 10 := by
  simp [gainOutput, Config.gainLimit, toReal_clamp, toReal_refMul]

/-- R106, R108, R109: the operations of a lane, under either record. -/
theorem gainLane_eq (s : State) (k c : Fin 16) :
    s.gainLane k c = gainOutput s.params.numerics (s.gainIn k c).number
      (s.params.numerics.pow s.bus.gain[k].level.number s.bus.gain[k].curve.number)
      (if 1 ≤ s.bus.gain[k].cv.ch then
        s.params.numerics.pow (cvBase s.params.numerics (s.gainCv k c).number s.bus.gain[k].offset.number)
          s.bus.gain[k].curve.number
      else .rat 1) := by
  simp only [State.gainLane, State.baseGain, State.cvFactor, State.cvLaneBase, connected_iff]

/-- R106, R108, R109: the real a lane holds, from the values it reads. -/
theorem toReal_gainLane {s : State} (ref : s.params.num = .ref) (k c : Fin 16) :
    (s.gainLane k c).toReal = min (max ((s.gainIn k c).number.toReal *
      s.bus.gain[k].level.number.toReal ^ s.bus.gain[k].curve.number.toReal *
      if 1 ≤ s.bus.gain[k].cv.ch then
        min (max (((s.gainCv k c).number.toReal + s.bus.gain[k].offset.number.toReal) / 10) 0) 1 ^
          s.bus.gain[k].curve.number.toReal
      else 1) (-10)) 10 := by
  have numerics : s.params.numerics = numRef := by rw [Params.numerics, ref, numOf]
  rw [gainLane_eq, numerics, toReal_gainOutput, numRef_pow, toReal_refPow, apply_ite Number.toReal, toReal_refPow,
    toReal_cvBase, toReal_rat, Rat.cast_one]

/-! ### The register after a tick (R105, R111) -/

theorem gainAfter_out_ch (s : State) (k : Fin 16) : (s.gainAfter k).out.ch = s.bus.gain[k].input.ch.toNat := by
  rw [State.gainAfter, publish_ch, GainBus.lanes]

theorem gainAfter_cell_below {s : State} {k c : Fin 16} (h : (c.val : Int) < s.bus.gain[k].input.ch) :
    (s.gainAfter k).out.cells[c] = s.gainCell k c := by
  rw [State.gainAfter, publish_cell_below _ _ (lt_gainLanes_iff.mpr h)]

theorem gainAfter_cell_beyond {s : State} {k c : Fin 16} (h : s.bus.gain[k].input.ch ≤ (c.val : Int)) :
    (s.gainAfter k).out.cells[c] = s.gain[k].out.cells[c] := by
  rw [State.gainAfter, publish_cell_beyond _ _ (not_lt.mp (mt lt_gainLanes_iff.mp h.not_gt))]

/-- Settles O38: the tick writes `State.gainAfter` to the unit, cell by cell. -/
theorem tickGainResult : Obligations.TickGainResult := by
  intro s k unit ready
  refine ⟨_, exec_tickGain_ready unit ready, frame_setGain s k _, ?_⟩
  rw [gain_setGain_same]
  refine ⟨gainAfter_out_ch s k, fun c lane => ⟨?_, fun ref => ?_⟩, fun c => gainAfter_cell_beyond⟩
  · rw [gainAfter_cell_below lane, State.gainCell, gainLane_eq]
    rfl
  · rw [← toReal_gainLane ref, gainLane_eq]
    rfl

/-! ### Corner cases (R113) -/

theorem toReal_gainOutput_of_zero {x g kc : Number} (h : x.toReal * g.toReal * kc.toReal = 0) :
    (gainOutput numRef x g kc).toReal = 0 := by
  rw [toReal_gainOutput, h]
  norm_num

theorem toReal_gainOutput_of_gt {x g kc : Number} (h : 10 < x.toReal * g.toReal * kc.toReal) :
    (gainOutput numRef x g kc).toReal = 10 := by
  rw [toReal_gainOutput, min_eq_right (le_max_of_le_left h.le)]

theorem toReal_gainOutput_of_lt {x g kc : Number} (h : x.toReal * g.toReal * kc.toReal < -10) :
    (gainOutput numRef x g kc).toReal = -10 := by
  rw [toReal_gainOutput, max_eq_right h.le]
  norm_num

theorem toReal_cvBase_of_nonpos {cv off : Number} (h : cv.toReal + off.toReal ≤ 0) :
    (cvBase numRef cv off).toReal = 0 := by
  rw [toReal_cvBase, max_eq_right (by linarith)]
  norm_num

theorem toReal_cvBase_of_ten_le {cv off : Number} (h : 10 ≤ cv.toReal + off.toReal) :
    (cvBase numRef cv off).toReal = 1 := by
  rw [toReal_cvBase, min_eq_right (le_max_of_le_left (by linarith))]

theorem toReal_refPow_of_base_zero {b e : Number} (hb : b.toReal = 0) (he : 0 < e.toReal) :
    (refPow b e).toReal = 0 := by
  rw [toReal_refPow, hb, Real.zero_rpow he.ne']

theorem toReal_refPow_of_base_one {b : Number} (hb : b.toReal = 1) (e : Number) : (refPow b e).toReal = 1 := by
  rw [toReal_refPow, hb, Real.one_rpow]

theorem toReal_refPow_of_curve_zero {e : Number} (b : Number) (he : e.toReal = 0) : (refPow b e).toReal = 1 := by
  rw [toReal_refPow, he, Real.rpow_zero]

theorem one_lt_toReal_refPow {b e : Number} (hb : 1 < b.toReal) (he : 0 < e.toReal) : 1 < (refPow b e).toReal := by
  rw [toReal_refPow]
  exact Real.one_lt_rpow hb he

/-- Settles O40: each row is a fact of the power, of the CV base or of the clamped product. -/
theorem gainCornerCases : Obligations.GainCornerCases := by
  intro x l e cv off kc _ _
  refine ⟨fun level curve => ?_, fun level _ => ?_, fun _ curve => toReal_refPow_of_curve_zero l curve,
    fun curve _ => toReal_refPow_of_curve_zero _ curve, fun low => ?_, fun high => ?_,
    toReal_gainOutput_of_gt, toReal_gainOutput_of_lt, one_lt_toReal_refPow⟩
  · have gain : (numRef.pow l e).toReal = 0 := toReal_refPow_of_base_zero level curve
    exact ⟨gain, toReal_gainOutput_of_zero (by rw [gain, mul_zero, zero_mul])⟩
  · have gain : (numRef.pow l e).toReal = 1 := toReal_refPow_of_base_one level e
    rw [toReal_gainOutput, gain, toReal_rat, Rat.cast_one, mul_one, mul_one]
  · have base := toReal_cvBase_of_nonpos low
    refine ⟨base, fun curve => ?_⟩
    have factor : (numRef.pow (cvBase numRef cv off) e).toReal = 0 := toReal_refPow_of_base_zero base curve
    exact ⟨factor, toReal_gainOutput_of_zero (by rw [factor, mul_zero])⟩
  · have base := toReal_cvBase_of_ten_le high
    exact ⟨base, toReal_refPow_of_base_one base e⟩

end Sys2Proof.Machine
end

section
/-! PROOFS. The family of the Bernoulli unit (R114 to R122): the refusals of the two monophonic ticks (R120, R127, R141),
a draw, the probability and the selection, and the tick that runs. -/

namespace Sys2Proof.Machine

/-! ### The checks of `TICK_BERN` and `TICK_LOGIC` (R120, R127, R139, R141) -/

theorem bernChannelsOk_iff {s : State} {k : Fin 16} :
    s.bernChannelsOk k = true ↔ ∀ p ∈ [s.bus.bern[k].gate, s.bus.bern[k].prob], 0 ≤ p.ch ∧ p.ch ≤ 16 := by
  simp [State.bernChannelsOk, chOk_iff]

theorem logicChannelsOk_iff {s : State} {k : Fin 16} :
    s.logicChannelsOk k = true ↔
      ∀ p ∈ [s.bus.logic[k].a, s.bus.logic[k].b, s.bus.logic[k].x, s.bus.logic[k].y], 0 ≤ p.ch ∧ p.ch ≤ 16 := by
  simp [State.logicChannelsOk, chOk_iff, and_assoc]

/-- R120: the gate is always read; the probability on a firing tick only, and when it is connected. -/
theorem bernReadsFinite_eq_false_iff {s : State} {k : Fin 16} :
    s.bernReadsFinite k = false ↔
      s.bus.bern[k].gate.readMono.isFinite = false ∨
        (s.bernFires k = true ∧ 1 ≤ s.bus.bern[k].prob.ch ∧ s.bus.bern[k].prob.readMono.isFinite = false) := by
  simp only [State.bernReadsFinite, Bool.and_eq_false_iff, Bool.or_eq_false_iff, Bool.not_eq_false', connected_iff,
    and_assoc]

/-- R127: all four inputs are read. -/
theorem logicReadsFinite_eq_false_iff {s : State} {k : Fin 16} :
    s.logicReadsFinite k = false ↔
      ∃ p ∈ [s.bus.logic[k].a, s.bus.logic[k].b, s.bus.logic[k].x, s.bus.logic[k].y], p.readMono.isFinite = false := by
  simp only [State.logicReadsFinite, Bool.and_eq_false_iff, List.exists_mem_cons_iff, List.not_mem_nil, false_and,
    exists_false, or_false, or_assoc]

/-! ### Refusing the ticks (R143) -/

theorem tickBern_nonFinite {s : State} {k : Fin 16} (unit : k.val < s.params.nBern) (ch : s.bernChannelsOk k = true)
    (finite : s.bernReadsFinite k = false) : tickBern k.val s = .error .nonFinite := by
  simp only [tickBern, unitIndex_of_lt unit, ch, finite, Bool.true_eq_false, if_false, if_true]

theorem tickLogic_nonFinite {s : State} {k : Fin 16} (unit : k.val < s.params.nLogic)
    (ch : s.logicChannelsOk k = true) (finite : s.logicReadsFinite k = false) :
    tickLogic k.val s = .error .nonFinite := by
  simp only [tickLogic, unitIndex_of_lt unit, ch, finite, Bool.true_eq_false, if_false, if_true]

/-- Settles O26: for either tick the counts pass the channel check, and the value that is not finite fails the next. -/
theorem nonFiniteMonoRefuses : Obligations.NonFiniteMonoRefuses := by
  refine fun s k => ⟨fun unit counts nonFinite => ?_, fun unit counts nonFinite => ?_⟩
  · rw [exec, execTickBern, tickBern_nonFinite unit (bernChannelsOk_iff.mpr counts)
      (bernReadsFinite_eq_false_iff.mpr nonFinite)]
    exact settle_error _ _ _
  · rw [exec, execTickLogic, tickLogic_nonFinite unit (logicChannelsOk_iff.mpr counts)
      (logicReadsFinite_eq_false_iff.mpr nonFinite)]
    exact settle_error _ _ _

/-! ### A draw (R117) -/

theorem draw_taken (k : Fin 16) (o : Oracle) : (o.draw k).2.taken = o.taken + 1 := by
  cases h : o.named with
  | nil => rw [draw_unnamed k o h]
  | cons r rest => rw [draw_named k o h]

/-- Settles O42: the named element, or the free value where none is named (assumption 5). -/
theorem drawTakesNextElement : Obligations.DrawTakesNextElement := by
  refine fun k o => ⟨draw_taken k o, fun r rest h => ?_, fun h => ?_, draw_range k o⟩
  · rw [draw_named k o h]
    exact ⟨rfl, rfl⟩
  · rw [draw_unnamed k o h]
    exact ⟨rfl, rfl⟩

/-! ### The selection and the probability (R116, R118, R122) -/

theorem select_eq_b_iff {r p : Number} : select r p = .b ↔ r.toReal < p.toReal := by
  simp [select, lt_iff]

theorem select_eq_a_iff {r p : Number} : select r p = .a ↔ p.toReal ≤ r.toReal := by
  simp [select, lt_iff]

theorem select_congr {r p q : Number} (h : r.toReal < p.toReal ↔ r.toReal < q.toReal) : select r p = select r q :=
  if_congr (lt_iff.trans (h.trans lt_iff.symm)) rfl rfl

/-- R122: the clamp to [0, 1] moves no number across a draw in [0, 1). -/
theorem lt_clamp_iff {r : Number} (nonneg : 0 ≤ r.toReal) (lt_one : r.toReal < 1) (p : Number) :
    r.toReal < (clamp p (.rat 0) (.rat 1)).toReal ↔ r.toReal < p.toReal := by
  rw [toReal_clamp, lt_min_iff, lt_max_iff]
  simp [lt_one, nonneg.not_gt]

theorem select_probability_connected {r : Number} (nonneg : 0 ≤ r.toReal) (lt_one : r.toReal < 1) (N : Numerics)
    (v : Number) : select r (probability N true v) = select r (N.div v (.rat 10)) :=
  select_congr (lt_clamp_iff nonneg lt_one _)

/-- Settles O44: the comparison with the draw decides the selection. -/
theorem probabilityClampUnobservable : Obligations.ProbabilityClampUnobservable := fun _ _ _ nonneg lt_one =>
  ⟨(lt_clamp_iff nonneg lt_one _).symm, select_probability_connected nonneg lt_one _ _⟩

/-- Settles O43: the selection compares the draw with a tenth of the voltage, or with the default probability. -/
theorem probabilityExtremes : Obligations.ProbabilityExtremes := by
  intro r v nonneg lt_one
  have tenth : (numRef.div v (.rat 10)).toReal = v.toReal / 10 := by simp [toReal_refDiv]
  rw [select_probability_connected nonneg lt_one, select_eq_a_iff, select_eq_b_iff, select_eq_b_iff, tenth]
  refine ⟨fun low => by linarith, fun high => by linarith, ?_⟩
  simp [probability, Config.probDefault]

/-! ### The gate and the trigger (R114, R115) -/

theorem isHigh_iff {v : Number} : isHigh v = true ↔ 2 ≤ v.toReal := by
  rw [isHigh, le_iff, Config.gateThreshold, toReal_rat, Rat.cast_ofNat]

section Gate

variable {s : State} {k : Fin 16} {v : Number} (gate : s.bus.bern[k].gate.readMono = .fin v)
include gate

theorem gateHigh_iff : s.bus.bern[k].gateHigh = true ↔ 2 ≤ v.toReal := by
  rw [BernBus.gateHigh, gate]
  exact isHigh_iff

theorem bernFires_iff : s.bernFires k = true ↔ 2 ≤ v.toReal ∧ s.bern[k].lastHigh = false := by
  rw [State.bernFires, fires, Bool.and_eq_true, gateHigh_iff gate, Bool.not_eq_true']

end Gate

/-! ### The registers after a tick (R116 to R119) -/

/-- R116. -/
theorem bernProb_eq (s : State) (k : Fin 16) :
    s.bernProb k = if 1 ≤ s.bus.bern[k].prob.ch then
        clamp (s.params.numerics.div s.bus.bern[k].prob.readMono.number (.rat 10)) (.rat 0) (.rat 1)
      else .rat (1 / 2) :=
  if_congr connected_iff rfl rfl

/-- R117, R118. -/
theorem bernAfter_fired {s : State} {k : Fin 16} (h : s.bernFires k = true) :
    (s.bernAfter k).latch = (if (s.bern[k].oracle.draw k).1.toReal < (s.bernProb k).toReal then .b else .a) ∧
      (s.bernAfter k).oracle = (s.bern[k].oracle.draw k).2 :=
  ⟨(if_pos h).trans (if_congr lt_iff rfl rfl), if_pos h⟩

/-- R119: whether it fired or not, a tick publishes the latch on both outputs. -/
theorem bernAfter_outputs (s : State) (k : Fin 16) :
    (s.bernAfter k).outA.ch = 1 ∧ (s.bernAfter k).outB.ch = 1 ∧
      (s.bernAfter k).outA.cells[0] = .val (.rat (if (s.bernAfter k).latch = .a then 10 else 0)) ∧
      (s.bernAfter k).outB.cells[0] = .val (.rat (if (s.bernAfter k).latch = .b then 10 else 0)) :=
  ⟨rfl, rfl, publishMono_zero _ _, publishMono_zero _ _⟩

/-- Settles O41: the tick runs, and its registers follow from whether it fired. -/
theorem tickBernResult : Obligations.TickBernResult := by
  intro s k v unit ready gate
  refine ⟨_, exec_tickBern_ready unit ready, frame_setBern s k _, ?_⟩
  rw [bern_setBern_same]
  obtain ⟨chA, chB, cellA, cellB⟩ := bernAfter_outputs s k
  refine ⟨gateHigh_iff gate, fun edge => ?_, fun noEdge => bernAfter_held ?_, chA, chB, cellA, cellB, fun c other =>
    ⟨publishMono_other _ _ other, publishMono_other _ _ other⟩⟩
  · rw [← bernProb_eq]
    exact bernAfter_fired ((bernFires_iff gate).mpr edge)
  · rwa [bernFires_iff gate, not_and_or, not_le, Bool.not_eq_false]

/-! ### The outputs follow the latch (R119, R154) -/

theorem outputsFollowLatch_afterReset (high : Bool) (latch : Latch) (o : Oracle) :
    OutputsFollowLatch (.afterReset high latch o) := .inl ⟨rfl, rfl⟩

theorem outputsFollowLatch_exec {i : Instr} {s t : State} (h : exec i s = .next t) {k : Fin 16}
    (follow : OutputsFollowLatch s.bern[k]) : OutputsFollowLatch t.bern[k] := by
  rcases exec_bern h k with kept | ⟨-, ticked⟩ | ⟨-, reset⟩
  · rwa [kept]
  · rw [ticked]
    exact .inr (bernAfter_outputs s k)
  · rw [reset]
    exact outputsFollowLatch_afterReset _ _ _

/-- Settles O54: taking a delivery and refusing write no Bernoulli unit; a command keeps, ticks or resets it. -/
theorem bernOutputsFollowLatch : Obligations.BernOutputsFollowLatch := by
  refine ⟨fun p k => ?_, fun s t follow h k => ?_⟩
  · rw [bern_construct]
    exact ⟨rfl, rfl, outputsFollowLatch_afterReset _ _ _⟩
  · rcases step_cases h with ⟨-, rfl⟩ | ⟨d, rest, -, ⟨i, -, hexec⟩ | ⟨-, rfl⟩⟩
    · exact follow k
    · exact outputsFollowLatch_exec hexec (follow k)
    · exact follow k

end Sys2Proof.Machine
end

section
/-! PROOFS. The family of the logic unit (R123 to R127): the levels of its binary inputs, the rows of the truth table in
volts, the selector, and the tick that runs. -/

namespace Sys2Proof.Machine

/-! ### The levels and the selector (R123, R126) -/

theorem isHigh_eq_false_iff {v : Number} : isHigh v = false ↔ v.toReal < 2 := by
  rw [← Bool.not_eq_true, isHigh_iff, not_le]

theorem max_eq_ite (x y : Number) : Number.max x y = if x.toReal ≤ y.toReal then y else x := if_congr le_iff rfl rfl

theorem min_eq_ite (x y : Number) : Number.min x y = if x.toReal ≤ y.toReal then x else y := if_congr le_iff rfl rfl

/-! ### The voltages of the binary outputs (R125) -/

theorem logicVolts_false : logicVolts false = .rat 0 := rfl

theorem logicVolts_true : logicVolts true = .rat 10 := rfl

/-! ### The registers after a tick (R124 to R126) -/

/-- R124, R125: the binary outputs carry the row of the truth table that the two levels select. -/
theorem logicAfter_binary {s : State} {k : Fin 16} {a b : Number} (inA : s.bus.logic[k].a.readMono = .fin a)
    (inB : s.bus.logic[k].b.readMono = .fin b) {p q outA outB : Bool} (levelA : isHigh a = p) (levelB : isHigh b = q)
    (row : truthTable p q = (outA, outB)) :
    (s.logicAfter k).outA.cells[0] = .val (logicVolts outA) ∧
      (s.logicAfter k).outB.cells[0] = .val (logicVolts outB) := by
  have bits : s.logicBits k = (outA, outB) := by
    rw [State.logicBits, inA, inB, ← row, ← levelA, ← levelB]
    rfl
  rw [State.logicAfter, bits]
  exact ⟨publishMono_zero _ _, publishMono_zero _ _⟩

/-- R126: the selector passes the greater and the lesser input through. -/
theorem logicAfter_selector {s : State} {k : Fin 16} {x y : Number} (inX : s.bus.logic[k].x.readMono = .fin x)
    (inY : s.bus.logic[k].y.readMono = .fin y) :
    (s.logicAfter k).max.cells[0] = .val (if x.toReal ≤ y.toReal then y else x) ∧
      (s.logicAfter k).min.cells[0] = .val (if x.toReal ≤ y.toReal then x else y) := by
  rw [State.logicAfter, inX, inY, ← max_eq_ite, ← min_eq_ite]
  exact ⟨publishMono_zero _ _, publishMono_zero _ _⟩

/-- R127: all four outputs are monophonic. -/
theorem logicAfter_ch (s : State) (k : Fin 16) :
    (s.logicAfter k).outA.ch = 1 ∧ (s.logicAfter k).outB.ch = 1 ∧ (s.logicAfter k).max.ch = 1 ∧
      (s.logicAfter k).min.ch = 1 :=
  ⟨rfl, rfl, rfl, rfl⟩

theorem logicAfter_cell_other (s : State) (k : Fin 16) {c : Fin 16} (other : c ≠ 0) :
    (s.logicAfter k).outA.cells[c] = s.logic[k].outA.cells[c] ∧
      (s.logicAfter k).outB.cells[c] = s.logic[k].outB.cells[c] ∧
      (s.logicAfter k).max.cells[c] = s.logic[k].max.cells[c] ∧
      (s.logicAfter k).min.cells[c] = s.logic[k].min.cells[c] :=
  ⟨publishMono_other _ _ other, publishMono_other _ _ other, publishMono_other _ _ other, publishMono_other _ _ other⟩

/-- Settles O46: the tick runs; the levels of the binary inputs select the row, and 2 V is high (R123). -/
theorem tickLogicResult : Obligations.TickLogicResult := by
  intro s k a b x y unit ready inA inB inX inY
  refine ⟨_, exec_tickLogic_ready unit ready, frame_setLogic s k _, ?_⟩
  rw [logic_setLogic_same, ← logicVolts_false, ← logicVolts_true]
  obtain ⟨max, min⟩ := logicAfter_selector inX inY
  obtain ⟨chA, chB, chMax, chMin⟩ := logicAfter_ch s k
  refine ⟨fun lowA lowB => ?_, fun lowA highB => ?_, fun highA lowB => ?_, fun highA highB => ?_,
    max, min, chA, chB, chMax, chMin, fun _ => logicAfter_cell_other s k⟩
  · exact logicAfter_binary inA inB (isHigh_eq_false_iff.mpr lowA) (isHigh_eq_false_iff.mpr lowB) rfl
  · exact logicAfter_binary inA inB (isHigh_eq_false_iff.mpr lowA) (isHigh_iff.mpr highB) rfl
  · exact logicAfter_binary inA inB (isHigh_iff.mpr highA) (isHigh_eq_false_iff.mpr lowB) rfl
  · exact logicAfter_binary inA inB (isHigh_iff.mpr highA) (isHigh_iff.mpr highB) rfl

end Sys2Proof.Machine
end


section
/-! PROOFS. The family of configuration and control (R128 to R135): the words of these commands, the reserved words of
their rows, the mode register, the configuration record, and `RESET`. -/

namespace Sys2Proof.Machine

/-! ### Words (R65, R69) -/

/-- R65: the fields of a command word, from the high bits down, as one number. -/
theorem toNat_commandWord (op : BitVec 4) (k : Fin 16) (imm : BitVec 8) :
    (commandWord op k.val imm).toNat = op.toNat * 4096 + k.val * 256 + imm.toNat := by
  have unit : (BitVec.ofNat 4 k.val).toNat < 2 ^ 4 := BitVec.isLt _
  rw [commandWord, BitVec.toNat_append, BitVec.toNat_append, ← Nat.shiftLeft_add_eq_or_of_lt imm.isLt,
    ← Nat.shiftLeft_add_eq_or_of_lt unit, Nat.shiftLeft_eq, Nat.shiftLeft_eq, BitVec.toNat_ofNat,
    Nat.mod_eq_of_lt k.isLt]
  omega

/-- R69: a word that has the `op` of a row and does not select it selects no other row either, and a step refuses it. -/
theorem step_reserved {s : State} {d : Delivery} {rest : List Delivery} {r : Row} (mem : r ∈ opcodeMap)
    (hp : s.pending = d :: rest) (op : d.word.toNat / 4096 = (r.pattern.extractLsb' 12 4).toNat)
    (other : r.selects d.word ≠ true) :
    ∃ t, step s = .next t ∧ RefusedWith .reservedEncoding d.word (s.take d rest) t := by
  have none : ∀ q ∈ opcodeMap, q.selects d.word ≠ true := by
    intro q mem' selects
    rw [← opField_eq, opField, op_of_selects mem' selects] at op
    obtain rfl : q = r := row_eq_of_op_eq r mem q mem' (BitVec.eq_of_toNat_eq op.symm)
    exact other selects
  exact ⟨_, step_of_decode_error hp (decode_of_selects_none none), refusedWith_refuse _ _ _⟩

/-- Settles O12: the row of `NOP` selects the word 0x0000 alone. -/
theorem nopChangesNothing : Obligations.NopChangesNothing := by
  refine ⟨rfl, fun _ => rfl, fun s d rest hp op ne => ?_⟩
  exact step_reserved (r := rowNop) (by decide) hp op fun selects => ne (pattern_of_selects selects rfl).symm

/-! ### The mode register (R35, R130) -/

theorem osc_setFmMode_same (s : State) (k : Fin 16) (m : FmMode) :
    (s.setFmMode k m).osc[k] = { s.osc[k] with fmMode := m } := osc_setOsc_same _ _ _

/-- R35: of the whole state, a mode write changes one mode register. -/
theorem setFmMode_writes_mode_only (s : State) (k : Fin 16) (m : FmMode) :
    FrameOsc k s (s.setFmMode k m) ∧ (s.setFmMode k m).osc[k].fmMode = m ∧
      (s.setFmMode k m).osc[k].phase = s.osc[k].phase ∧ (s.setFmMode k m).osc[k].out = s.osc[k].out ∧
      (s.setFmMode k m).osc[k].draws = s.osc[k].draws := by
  rw [osc_setFmMode_same]
  exact ⟨frame_setOsc _ _ _, rfl, rfl, rfl, rfl⟩

theorem exec_setMode {s : State} {k : Fin 16} (unit : k.val < s.params.nOsc) (m : FmMode) :
    exec (.setMode k.val m) s = .next (s.setFmMode k m) := exec_of_ownEffect (.setMode k m s unit)

theorem exec_saveCfg {s : State} {k : Fin 16} (unit : k.val < s.params.nOsc) :
    exec (.saveCfg k.val) s = .next (s.emit (configRecord s.osc[k].fmMode)) := exec_of_ownEffect (.saveCfg k s unit)

theorem exec_loadCfg {s : State} {k : Fin 16} (unit : k.val < s.params.nOsc) :
    exec (.loadCfg k.val) s = .next (s.setFmMode k (parseFmMode s.record)) :=
  exec_of_ownEffect (.loadCfg k s unit)

/-- R67: the immediate field of `SETMODE`. -/
theorem toNat_modeImm (m : FmMode) : (0#7 ++ BitVec.ofBool m.toBit).toNat = if m = .linear then 1 else 0 := by
  cases m <;> rfl

/-- R67, R69: the row of `SETMODE` leaves only the mode bit of `imm` open. -/
theorem imm_of_selects_setMode {w : Word} (h : rowSetMode.selects w = true) : w &&& 0x00FE#16 = 0#16 := by
  rw [Row.selects, beq_iff_eq] at h
  calc w &&& 0x00FE#16 = w &&& rowSetMode.mask &&& 0x00FE#16 := by rw [BitVec.and_assoc]; rfl
    _ = 0#16 := by rw [h]; rfl

/-- Settles O13: a non-zero `imm[7:1]` is outside the row, and an existing oscillator has its mode register written. -/
theorem setModeWritesModeOnly : Obligations.SetModeWritesModeOnly := by
  refine ⟨fun s d rest hp op imm => ?_, fun s u m absent => exec_noSuchUnit rfl absent, fun s k m =>
    ⟨?_, fun unit => ?_⟩⟩
  · exact step_reserved (r := rowSetMode) (by decide) hp op fun selects => imm (imm_of_selects_setMode selects)
  · rw [encode, toNat_commandWord, toNat_modeImm]
    rfl
  · exact ⟨_, exec_setMode unit m, setFmMode_writes_mode_only s k m⟩

/-! ### The configuration record (R76, R131 to R134) -/

/-- R76: the record of a mode, with the mode's integer written out. -/
theorem configRecord_eq (m : FmMode) :
    configRecord m = .json (.obj (.cons "FMmode" (.int (if m = .linear then 1 else 0)) .nil)) := by
  cases m <;> rfl

/-- Settles O14: an existing oscillator has the record of its mode emitted. -/
theorem saveCfgEmitsModeRecord : Obligations.SaveCfgEmitsModeRecord := by
  refine ⟨fun s u absent => exec_noSuchUnit rfl absent, fun s k => ⟨toNat_commandWord _ k _, fun unit => ?_⟩⟩
  rw [← configRecord_eq]
  exact ⟨_, exec_saveCfg unit, rfl, rfl, rfl, rfl, rfl, rfl, rfl, rfl, rfl, rfl, rfl⟩

/-- Settles O15: an existing oscillator has its mode register written with the parsed mode. -/
theorem loadCfgWritesParsedMode : Obligations.LoadCfgWritesParsedMode :=
  ⟨fun _ _ absent => exec_noSuchUnit rfl absent, fun s k => ⟨toNat_commandWord _ k _, fun unit =>
    ⟨_, exec_loadCfg unit, setFmMode_writes_mode_only s k _⟩⟩⟩

theorem hasModeOne_iff : (ms : JsonMembers) → (ms.hasModeOne = true ↔ ("FMmode", Json.int 1) ∈ ms.toList)
  | .nil => by simp [JsonMembers.hasModeOne, JsonMembers.toList]
  | .cons key value rest => by
    rw [JsonMembers.hasModeOne, JsonMembers.toList, List.mem_cons, ← hasModeOne_iff rest]
    simp only [Bool.or_eq_true, Bool.and_eq_true, decide_eq_true_eq, Prod.mk.injEq, @eq_comm _ key, @eq_comm _ value]

/-- R133, both directions. -/
theorem parseFmMode_eq_linear_iff {r : Record} :
    parseFmMode r = .linear ↔ ∃ ms : JsonMembers, r = .json (.obj ms) ∧ ("FMmode", Json.int 1) ∈ ms.toList := by
  cases r with
  | malformed text => simp [parseFmMode, Config.fmModeDefault]
  | json j => cases j <;> simp [parseFmMode, Config.fmModeDefault, hasModeOne_iff]

theorem eq_exponential_iff {m : FmMode} : m = .exponential ↔ m ≠ .linear := by
  cases m <;> decide

/-- Settles O16: there are two modes, and the record with the member is the one that loads 1. -/
theorem parseFmModeRule : Obligations.ParseFmModeRule := fun _ =>
  ⟨parseFmMode_eq_linear_iff.mpr, fun none => eq_exponential_iff.mpr fun h => none (parseFmMode_eq_linear_iff.mp h)⟩

/-- R134: loading undoes saving. -/
theorem parseFmMode_configRecord (m : FmMode) : parseFmMode (configRecord m) = m := by
  cases m <;> decide

/-- R134: an object without the key loads 0. -/
theorem parseFmMode_of_key_absent {ms : JsonMembers} (absent : ∀ e ∈ ms.toList, e.1 ≠ "FMmode") :
    parseFmMode (.json (.obj ms)) = .exponential := by
  obtain ⟨-, otherwise⟩ := parseFmModeRule (.json (.obj ms))
  refine otherwise ?_
  rintro ⟨ms, ⟨⟩, mem⟩
  exact absent _ mem rfl

/-- R132: whatever `LOADCFG` parses is the mode afterwards. -/
theorem loadCfg_sets_mode {s : State} {k : Fin 16} {m : FmMode} (unit : k.val < s.params.nOsc)
    (parsed : parseFmMode s.record = m) : ∃ t, exec (.loadCfg k.val) s = .next t ∧ t.osc[k].fmMode = m := by
  subst parsed
  exact ⟨_, exec_loadCfg unit, by rw [osc_setFmMode_same]⟩

/-- Settles O17: the mode that was set is the one saved, and parsing its record gives it back. -/
theorem configRoundTrip : Obligations.ConfigRoundTrip := by
  refine fun s k m unit => ⟨⟨_, _, configRecord m, exec_setMode unit m, exec_saveCfg unit, configRecord_eq m, ?_,
    fun s₃ params record => ?_⟩, fun ms record absent => ?_⟩
  · rw [osc_setFmMode_same]
    rfl
  · exact loadCfg_sets_mode (by rwa [params]) (by rw [record, parseFmMode_configRecord])
  · exact loadCfg_sets_mode unit (by rw [record, parseFmMode_of_key_absent absent])

/-! ### `RESET` (R135) -/

theorem atResetValues_resetUnits (s : State) : AtResetValues s.resetUnits := by
  obtain ⟨-, reset, -⟩ := constructionHoldsResetValues
  obtain ⟨_, ⟨⟩, values, -⟩ := reset s
  exact values

/-- R135: the parameters, the mark and the host's side stay. -/
theorem sameOutsideUnits_resetUnits (s : State) : SameOutsideUnits s s.resetUnits :=
  ⟨params_resetUnits s, refused_resetUnits s, bus_resetUnits s, record_resetUnits s, pending_resetUnits s,
    emitted_resetUnits s, report_resetUnits s⟩

/-- Settles O18: the row of `RESET` selects the word 0x8000 alone, and the reset units carry their draws over. -/
theorem resetCommandRestoresConstruction : Obligations.ResetCommandRestoresConstruction := by
  refine ⟨rfl, fun s d rest hp op ne => ?_, fun s =>
    ⟨s.resetUnits, rfl, atResetValues_resetUnits s, sameOutsideUnits_resetUnits s, fun k => ?_⟩⟩
  · exact step_reserved (r := rowReset) (by decide) hp op fun selects => ne (pattern_of_selects selects rfl).symm
  · rw [bern_resetUnits, osc_resetUnits, gain_resetUnits]
    exact ⟨rfl, rfl, rfl⟩

end Sys2Proof.Machine
end

section
/-! PROOFS. The family of refusals and of idling (R137 to R140, R150): what a step that reports a refusal did, the range
checks of the ticks, and the step with no command sent. -/

namespace Sys2Proof.Machine

/-! ### A step that refuses (R137, R138) -/

/-- R137, R138: a step that takes a command and reports a refusal did nothing but take it and refuse its word. -/
theorem step_eq_refuse_of_report {s t : State} {d : Delivery} {rest : List Delivery} {r : Report}
    (hp : s.pending = d :: rest) (h : step s = .next t) (report : t.report = some r) :
    r.word = d.word ∧ t = (s.take d rest).refuse r.reason d.word := by
  rcases step_cases h with ⟨idle, -⟩ | ⟨d', rest', hp', taken⟩
  · simp [hp] at idle
  · obtain ⟨rfl, rfl⟩ := List.cons.inj (hp.symm.trans hp')
    rcases taken with ⟨i, command, run⟩ | ⟨-, rfl⟩
    · obtain ⟨-, word⟩ := encode_of_decode command
      rcases exec_cases run with own | ⟨reason, rfl⟩
      · obtain ⟨-, -, noReport⟩ := own.params_refused_report
        simp [noReport] at report
      · cases report
        exact ⟨word, by rw [word]⟩
    · cases report
      exact ⟨rfl, rfl⟩

/-- Settles O9: such a step took the command and refused it; the next step answers a state, and none clears the mark. -/
theorem refusedStepChangesNothingElse : Obligations.RefusedStepChangesNothingElse := by
  intro s t d rest r hp h report
  obtain ⟨word, rfl⟩ := step_eq_refuse_of_report hp h report
  obtain ⟨t', next⟩ := everyStepAnswersNext ((s.take d rest).refuse r.reason d.word)
  obtain ⟨-, sticky, -⟩ := refusalMarkIsSticky
  exact ⟨word, rfl, rfl, rfl, rfl, rfl, rfl, rfl, rfl, t', next, sticky _ t' next rfl⟩

/-! ### The channel counts of a tick (R139) -/

/-- The input ports the tick of a unit reads (R51). -/
def Bus.portsRead (b : Bus) : UnitKind → Fin 16 → List InPort
  | .osc, k => [b.osc[k].pitch, b.osc[k].fm]
  | .gain, k => [b.gain[k].input, b.gain[k].cv]
  | .bern, k => [b.bern[k].gate, b.bern[k].prob]
  | .logic, k => [b.logic[k].a, b.logic[k].b, b.logic[k].x, b.logic[k].y]

/-- The check of R139 that the tick of a unit makes. -/
def State.channelsOk (s : State) : UnitKind → Fin 16 → Bool
  | .osc => s.oscChannelsOk
  | .gain => s.gainChannelsOk
  | .bern => s.bernChannelsOk
  | .logic => s.logicChannelsOk

theorem channelsOk_iff {s : State} (κ : UnitKind) {k : Fin 16} :
    s.channelsOk κ k = true ↔ ∀ p ∈ s.bus.portsRead κ k, 0 ≤ p.ch ∧ p.ch ≤ 16 := by
  cases κ
  exacts [oscChannelsOk_iff, gainChannelsOk_iff, bernChannelsOk_iff, logicChannelsOk_iff]

/-- R143: the channel counts are the first thing the tick of a unit that exists looks at. -/
theorem exec_tick_of_channelsOk_false {s : State} (κ : UnitKind) {k : Fin 16} {n : Nat}
    (count : s.params.unitCount (κ.tick k.val) = some n) (unit : k.val < n) (ch : s.channelsOk κ k = false) :
    ∃ t, exec (κ.tick k.val) s = .next t ∧ RefusedWith .channelRange (encode (κ.tick k.val)) s t := by
  cases κ with
  | osc | gain | bern | logic =>
    cases count
    simp only [State.channelsOk] at ch
    simp only [UnitKind.tick, exec, execTickOsc, execTickGain, execTickBern, execTickLogic, tickOsc, tickGain, tickBern,
      tickLogic, unitIndex_of_lt unit, ch, if_true]
    exact settle_error _ _ _

theorem exec_tick_channelRange {s : State} (κ : UnitKind) {k : Fin 16} {n : Nat}
    (count : s.params.unitCount (κ.tick k.val) = some n) (unit : k.val < n)
    (bad : ∃ p ∈ s.bus.portsRead κ k, p.ch < 0 ∨ 16 < p.ch) :
    ∃ t, exec (κ.tick k.val) s = .next t ∧ RefusedWith .channelRange (encode (κ.tick k.val)) s t := by
  obtain ⟨p, mem, range⟩ := bad
  refine exec_tick_of_channelsOk_false κ count unit (Bool.eq_false_iff.mpr fun ok => ?_)
  obtain ⟨low, high⟩ := (channelsOk_iff κ).mp ok p mem
  omega

/-- Settles O21: for the tick of each kind. -/
theorem channelRangeRefuses : Obligations.ChannelRangeRefuses := fun _ _ =>
  ⟨exec_tick_channelRange .osc rfl, exec_tick_channelRange .gain rfl, exec_tick_channelRange .bern rfl,
    exec_tick_channelRange .logic rfl⟩

/-! ### The ranges of the controls (R107, R140) -/

theorem oscControlBad_iff {s : State} {k : Fin 16} :
    s.oscControlBad k = true ↔
      (∃ sr, s.bus.sampleRate = .fin sr ∧ sr.toReal ≤ 0) ∨
        ∃ d, s.bus.osc[k].depth = .fin d ∧ (d.toReal < -1 ∨ 1 < d.toReal) := by
  simp only [State.oscControlBad, Bool.or_eq_true, test_iff, le_iff, lt_iff, toReal_rat, Rat.cast_zero, Rat.cast_neg,
    Rat.cast_one]

theorem gainControlBad_iff {s : State} {k : Fin 16} :
    s.gainControlBad k = true ↔
      (∃ l, s.bus.gain[k].level = .fin l ∧ l.toReal < 0) ∨ ∃ e, s.bus.gain[k].curve = .fin e ∧ e.toReal < 0 := by
  simp only [State.gainControlBad, Bool.or_eq_true, test_iff, lt_iff, toReal_rat, Rat.cast_zero]

/-- R143: the ranges of the controls are the second thing `TICK_OSC` looks at. -/
theorem tickOsc_controlRange {s : State} {k : Fin 16} (unit : k.val < s.params.nOsc) (ch : s.oscChannelsOk k = true)
    (control : s.oscControlBad k = true) : tickOsc k.val s = .error .controlRange := by
  simp only [tickOsc, unitIndex_of_lt unit, ch, control, Bool.true_eq_false, if_false, if_true]

/-- R143: the ranges of the controls are the second thing `TICK_GAIN` looks at. -/
theorem tickGain_controlRange {s : State} {k : Fin 16} (unit : k.val < s.params.nGain)
    (ch : s.gainChannelsOk k = true) (control : s.gainControlBad k = true) :
    tickGain k.val s = .error .controlRange := by
  simp only [tickGain, unitIndex_of_lt unit, ch, control, Bool.true_eq_false, if_false, if_true]

/-- R140: any finite sample time will do. -/
theorem oscReady_sampleTime {s : State} {k : Fin 16} (ready : OscReady s k) (dt : Number) :
    OscReady { s with bus := { s.bus with sampleTime := .fin dt } } k := by
  obtain ⟨pitch, fm, rate, depth, odd, even, -, base, scale, lanes⟩ := ready
  exact ⟨pitch, fm, rate, depth, odd, even, ⟨dt, rfl⟩, base, scale, lanes⟩

/-- Settles O22: the channel counts pass the first check of R143 and a control fails the second; the sample time is in
neither. -/
theorem controlRangeRefuses : Obligations.ControlRangeRefuses := by
  refine fun s k => ⟨fun unit counts bad => ?_, fun unit counts bad => ?_, fun unit ready dt => ?_⟩
  · rw [exec, execTickOsc, tickOsc_controlRange unit (oscChannelsOk_iff.mpr counts) (oscControlBad_iff.mpr bad)]
    exact settle_error _ _ _
  · exact exec_tickGain_error
      (tickGain_controlRange unit (gainChannelsOk_iff.mpr counts) (gainControlBad_iff.mpr bad))
  · exact ⟨_, exec_tickOsc_ready unit (oscReady_sampleTime ready dt), refused_setOsc _ _ _⟩

/-! ### No command sent (R150) -/

/-- Settles O7: the step's own case for an empty queue. -/
theorem idleHoldsState : Obligations.IdleHoldsState := by
  intro s idle
  rw [step, idle]

end Sys2Proof.Machine
end

section
/-! PROOFS. The family of the test vectors and of the second tick: the harmonic sum about half a turn (V31), and a
Bernoulli tick repeated on the same bus (R155). -/

namespace Sys2Proof.Machine

/-! ### The harmonic sum about half a turn (V31) -/

/-- Harmonic `i` turns a whole number of times in a turn, so each term is odd about half a turn. -/
theorem toReal_harmonicTerm_of_eq_one_sub {p p' : Number} (h : p'.toReal = 1 - p.toReal) (o e : Number) (i : Nat) :
    (harmonicTerm numRef p' o e i).toReal = -(harmonicTerm numRef p o e i).toReal := by
  have angle : 2 * Real.pi * p'.toReal * i = i * (2 * Real.pi) - 2 * Real.pi * p.toReal * i := by rw [h]; ring
  rw [toReal_harmonicTerm, toReal_harmonicTerm, angle, Real.sin_nat_mul_two_pi_sub, mul_neg, neg_div]

/-- Settles O34: the fundamental and every harmonic change sign. -/
theorem harmonicSumOdd : Obligations.HarmonicSumOdd := by
  intro p p' o e h
  have fundamental : Real.sin (2 * Real.pi * p'.toReal) = -Real.sin (2 * Real.pi * p.toReal) := by
    rw [h, mul_sub, mul_one, Real.sin_two_pi_sub]
  rw [toReal_hsum, toReal_hsum, fundamental, neg_add, List.sum_neg, List.map_map]
  simp only [toReal_harmonicTerm_of_eq_one_sub h, Function.comp_def]

/-! ### A second tick of a Bernoulli unit (R155) -/

theorem setBern_self (s : State) (k : Fin 16) : s.setBern k s.bern[k] = s := by
  rw [State.setBern, set_get_self]

/-- R115, R155: the flag holds the gate level after a tick, so there is no edge on the same bus. -/
theorem not_bernFires_setBern_bernAfter (s : State) (k : Fin 16) :
    ¬(s.setBern k (s.bernAfter k)).bernFires k = true := by
  rw [State.bernFires, bern_setBern_same, bus_setBern, State.bernAfter, fires, Bool.and_not_self]
  exact Bool.false_ne_true

/-- The registers after a second tick on the same bus are those after the first. -/
theorem bernAfter_setBern_bernAfter (s : State) (k : Fin 16) :
    (s.setBern k (s.bernAfter k)).bernAfter k = s.bernAfter k := by
  have held := not_bernFires_setBern_bernAfter s k
  rw [State.bernAfter, State.latchAfter, State.oracleAfter, if_neg held, if_neg held, bern_setBern_same, bus_setBern]
  simp only [State.bernAfter, publishMono_twice]

/-- R141: a second tick on the same bus reads the gate alone, which the first found finite. -/
theorem bernReadsFinite_setBern_bernAfter {s : State} {k : Fin 16} (finite : s.bernReadsFinite k = true) :
    (s.setBern k (s.bernAfter k)).bernReadsFinite k = true := by
  obtain ⟨gate, -⟩ := Bool.and_eq_true_iff.mp finite
  rw [State.bernReadsFinite, Bool.eq_false_of_not_eq_true (not_bernFires_setBern_bernAfter s k), bus_setBern, gate]
  rfl

/-- A tick reads neither the mark nor the report, so an earlier refusal shows in nothing else. -/
theorem tickBern_refuse (u : Nat) (s : State) (r : RefuseReason) (w : Word) :
    tickBern u (s.refuse r w) = (tickBern u s).map (·.refuse r w) := by
  have ch (k : Fin 16) : (s.refuse r w).bernChannelsOk k = s.bernChannelsOk k := rfl
  have finite (k : Fin 16) : (s.refuse r w).bernReadsFinite k = s.bernReadsFinite k := rfl
  unfold tickBern
  rw [params_refuse]
  cases unitIndex s.params.nBern u with
  | none => rfl
  | some k =>
    simp only [ch, finite]
    split_ifs
    exacts [rfl, rfl, rfl]

/-- Settles O45: a tick that ran leaves its unit as a second one would write it; a tick that refused refuses again. -/
theorem secondBernTickHolds : Obligations.SecondBernTickHolds := by
  intro s t u h
  rcases settle_next h with ran | ⟨e, refused, rfl⟩
  · cases tickBern_ok ran with
    | tickBern k _ unit ch finite =>
      have again := exec_of_ownEffect
        (.tickBern k (s.setBern k (s.bernAfter k)) unit ch (bernReadsFinite_setBern_bernAfter finite))
      have self := setBern_self (s.setBern k (s.bernAfter k)) k
      rw [bern_setBern_same] at self
      rwa [bernAfter_setBern_bernAfter, self] at again
  · rw [exec, execTickBern, tickBern_refuse, refused]
    rfl

end Sys2Proof.Machine
end
